-- ==== Sys2Proof/Word.lean ====
section
/-! DEFINITION. The word types of the block and its three block widths. -/

namespace Sys2Proof

/-- A byte of a byte string (R8). -/
abbrev Byte := BitVec 8

/-- A 64-bit unsigned word; `+` and `-` wrap modulo 2^64 (R7, R72). -/
abbrev Word := BitVec 64

/-- The 32-bit command word `CMD` (R53, R54). -/
abbrev CmdWord := BitVec 32

/-- The three block widths (R6, R16, R26, R56): the legal values 32, 64 and 128 of `SK_NB` and `TF_NB`. -/
inductive Width where
  /-- 32 bytes: Skein-256, Threefish-256. -/
  | w256
  /-- 64 bytes: Skein-512, Threefish-512. -/
  | w512
  /-- 128 bytes: Skein-1024, Threefish-1024. -/
  | w1024
  deriving DecidableEq, Repr

end Sys2Proof
end

