-- ==== Sys2Proof/Config.lean ====
section
/-! DEFINITION. What an implementation of the block fixes: its identity and its one open parameter. -/

namespace Sys2Proof.Config

/-- The identity string of the block (R1, D1). -/
def identity : String := "SKEIN-TF/seq-v1"

/-- The least value `MAX_PAYLOAD_BYTES` may have (R52, D3). -/
def minPayloadBytes : Nat := 128

/-- How far the implementation's `MAX_PAYLOAD_BYTES` lies above its least value: left open by R52 and D3, so it
has no body and nothing can be proved of it (notes/assumptions/7.md). -/
opaque payloadBeyondMinimum : Nat

/-- `MAX_PAYLOAD_BYTES`, the open parameter of R52: at least 128 by its form. -/
def maxPayloadBytes : Nat := minPayloadBytes + payloadBeyondMinimum

end Sys2Proof.Config
end

