-- ==== Sys2Proof/Syntax.lean ====
section
/-! DEFINITION. The commands of the block as syntax: one constructor for each row of the opcode table, with the
fields of the command word it uses (R54 to R59). The operands `ARG0`, `ARG1` and `D0` to `D4` are not part of a
command word: they travel with the transaction (R53, R65). -/

namespace Sys2Proof

/-- The presence mask `F[4:0]` of `SK_INIT` (R57). -/
structure InitMask where
  /-- `F[0]`: a key in `D0`. -/
  key : Bool
  /-- `F[1]`: a personalization in `D1`. -/
  prs : Bool
  /-- `F[2]`: a public key in `D2`. -/
  pk : Bool
  /-- `F[3]`: a key identifier in `D3`. -/
  kid : Bool
  /-- `F[4]`: a nonce in `D4`. -/
  non : Bool
  deriving DecidableEq, Repr

/-- A command (R55). -/
inductive Instr where
  /-- `SK_INIT` with its width code `W` (R56) and presence mask `F` (R57). -/
  | skInit (w : BitVec 2) (f : InitMask)
  /-- `SK_UPDATE` with `B`, "bit count present" (R58). -/
  | skUpdate (b : Bool)
  /-- `SK_DIGEST` with `E`, "stop present", and `S`, "start present" (R59). -/
  | skDigest (stopPresent startPresent : Bool)
  /-- `TF_SETUP` (R95). -/
  | tfSetup
  /-- `TF_ENCRYPT` (R96). -/
  | tfEncrypt
  /-- `TF_DECRYPT` (R97). -/
  | tfDecrypt
  /-- `TF_GET_TWEAK` (R98). -/
  | tfGetTweak
  /-- `TF_SET_TWEAK` (R99). -/
  | tfSetTweak
  deriving DecidableEq, Repr

end Sys2Proof
end

