-- ==== Sys2Proof/WellFormed.lean ====
section
/-! DEFINITION. Which commands are well-formed: those whose command word is legal. -/

namespace Sys2Proof

/-- The width code of `SK_INIT` is one of 0, 1, 2: `W = 3` is reserved (R56, R64 (3)). -/
abbrev widthCodeLegal (w : BitVec 2) : Prop := w ≠ 3#2

/-- A command is well-formed when R64 lets its word stand. The fixed, reserved and undefined bits have no place in
`Instr`, so the only check left is the width code of `SK_INIT`. -/
def Instr.wellFormed : Instr → Bool
  | .skInit w _ => decide (widthCodeLegal w)
  | .skUpdate _ => true
  | .skDigest _ _ => true
  | .tfSetup => true
  | .tfEncrypt => true
  | .tfDecrypt => true
  | .tfGetTweak => true
  | .tfSetTweak => true

end Sys2Proof
end

