-- ==== Sys2Proof/Decode.lean ====
section
/-! DEFINITION. Decoding a command word, total on all 2^32 words and rejecting by name, and the encoder
(R54 to R59, R64, R68). -/

namespace Sys2Proof

/-! ## The fields of the command word (R54) -/

/-- `OPC = CMD[7:0]`. -/
def opcodeField (cmd : CmdWord) : BitVec 8 := cmd.extractLsb' 0 8

/-- `W = CMD[9:8]`. -/
def widthField (cmd : CmdWord) : BitVec 2 := cmd.extractLsb' 8 2

/-- The reserved bits `CMD[15:10]`. -/
def reservedLow (cmd : CmdWord) : BitVec 6 := cmd.extractLsb' 10 6

/-- `F = CMD[20:16]`. -/
def flagField (cmd : CmdWord) : BitVec 5 := cmd.extractLsb' 16 5

/-- The reserved bits `CMD[31:21]`. -/
def reservedHigh (cmd : CmdWord) : BitVec 11 := cmd.extractLsb' 21 11

/-- The word with the given `F`, `W` and `OPC` and every reserved bit 0. -/
def assembleFields (f : BitVec 5) (w : BitVec 2) (opc : BitVec 8) : CmdWord :=
  0#11 ++ f ++ 0#6 ++ w ++ opc

/-- The presence mask of the five bits of `F` (R57). -/
def InitMask.ofBits (f : BitVec 5) : InitMask :=
  { key := f.getLsbD 0, prs := f.getLsbD 1, pk := f.getLsbD 2, kid := f.getLsbD 3, non := f.getLsbD 4 }

/-- The five bits of `F` of a presence mask (R57). -/
def InitMask.toBits (m : InitMask) : BitVec 5 :=
  BitVec.ofBool m.non ++ BitVec.ofBool m.kid ++ BitVec.ofBool m.pk ++ BitVec.ofBool m.prs ++ BitVec.ofBool m.key

/-! ## Decoding -/

/-- Why a command word is illegal (R64). All of them raise `IllegalCommand` alike (R142); the name only says which
clause of R64 the word breaks first. -/
inductive DecodeError where
  /-- R64 (1): `OPC` is a reserved opcode. -/
  | reservedOpcode
  /-- R64 (2): a bit of [31:21] or [15:10] is set. -/
  | reservedBits
  /-- R64 (3): `W` is not 0 in a command other than `SK_INIT`. -/
  | widthNotAllowed
  /-- R64 (3): `W = 3` in `SK_INIT`. -/
  | reservedWidth
  /-- R64 (4): a bit of `F` that the opcode does not define is set. -/
  | undefinedFlag
  deriving DecidableEq, Repr

/-- What the decoder answers. -/
inductive Decoded where
  /-- The word is legal and is this command. -/
  | command (i : Instr)
  /-- The word is illegal. -/
  | illegal (e : DecodeError)
  deriving DecidableEq, Repr

/-- `SK_INIT` (R56, R57). -/
def decodeSkInit (w : BitVec 2) (f : BitVec 5) : Decoded :=
  if w = 3#2 then .illegal .reservedWidth else .command (.skInit w (InitMask.ofBits f))

/-- A command that lets `W` be 0 only and defines the low bits `F[k-1:0]` of `F` only (R64 (3) and (4)). -/
def decodeChecked (k : Nat) (i : Instr) (w : BitVec 2) (f : BitVec 5) : Decoded :=
  if w ≠ 0#2 then .illegal .widthNotAllowed
  else if f >>> k ≠ 0#5 then .illegal .undefinedFlag
  else .command i

/-- The opcode map (R55). -/
def decodeOpcode (opc : BitVec 8) (w : BitVec 2) (f : BitVec 5) : Decoded :=
  if opc = 0x01#8 then decodeSkInit w f
  else if opc = 0x02#8 then decodeChecked 1 (.skUpdate (f.getLsbD 0)) w f
  else if opc = 0x03#8 then decodeChecked 2 (.skDigest (f.getLsbD 1) (f.getLsbD 0)) w f
  else if opc = 0x10#8 then decodeChecked 0 .tfSetup w f
  else if opc = 0x11#8 then decodeChecked 0 .tfEncrypt w f
  else if opc = 0x12#8 then decodeChecked 0 .tfDecrypt w f
  else if opc = 0x13#8 then decodeChecked 0 .tfGetTweak w f
  else if opc = 0x14#8 then decodeChecked 0 .tfSetTweak w f
  else .illegal .reservedOpcode

/-- The decoder: total on every command word; it reads the command word alone (R53, R64, R65). -/
def decode (cmd : CmdWord) : Decoded :=
  if reservedHigh cmd ≠ 0#11 then .illegal .reservedBits
  else if reservedLow cmd ≠ 0#6 then .illegal .reservedBits
  else decodeOpcode (opcodeField cmd) (widthField cmd) (flagField cmd)

/-- The command a word decodes to, if it is legal. -/
def Decoded.toOption : Decoded → Option Instr
  | .command i => some i
  | .illegal _ => none

/-! ## Encoding (R68) -/

/-- The command word of a command, from the patterns of R68. -/
def encode : Instr → CmdWord
  | .skInit w f => assembleFields f.toBits w 0x01#8
  | .skUpdate b => assembleFields (0#4 ++ BitVec.ofBool b) 0#2 0x02#8
  | .skDigest e st => assembleFields (0#3 ++ BitVec.ofBool e ++ BitVec.ofBool st) 0#2 0x03#8
  | .tfSetup => assembleFields 0#5 0#2 0x10#8
  | .tfEncrypt => assembleFields 0#5 0#2 0x11#8
  | .tfDecrypt => assembleFields 0#5 0#2 0x12#8
  | .tfGetTweak => assembleFields 0#5 0#2 0x13#8
  | .tfSetTweak => assembleFields 0#5 0#2 0x14#8

/-! ## The host's view of the opcode table -/

/-- The instruction the decoder reads from the `nbits` bits `w` of an opcode-table row. Every command word has 32
bits (R65): bits above `nbits` are 0, and a word that needs more than 32 bits is no command
(notes/assumptions/10.md). -/
def decodeTableWord (nbits w : Nat) : Option Instr :=
  if w % 2 ^ nbits < 2 ^ 32 then (decode (BitVec.ofNat 32 (w % 2 ^ nbits))).toOption else none

end Sys2Proof
end

