-- ==== Sys2Proof/Machine/State.lean ====
section
/-! DEFINITION. The state of the block as plain data, the reasons a step can stop, and the state after reset. -/

namespace Sys2Proof.Machine

/-- The engine context (R14). `SK_BCNT` is the length of `buf` (R22, R27; notes/assumptions/4.md). -/
structure EngineCtx where
  /-- `SK_READY` (R15). -/
  ready : Bool
  /-- `SK_NB` (R16). -/
  nb : Width
  /-- `SK_DIGEST_BITS` (R17). -/
  digestBits : Word
  /-- `SK_X[0..NW-1]` (R18): exactly the NW words of the configured width (notes/assumptions/3.md). -/
  x : List Word
  /-- `SK_T0` (R19). -/
  t0 : Word
  /-- `SK_T1` (R20). -/
  t1 : Word
  /-- `SK_BUF[0..SK_BCNT-1]` (R21). -/
  buf : List Byte
  /-- `SK_MISSING` (R23). -/
  missing : Fin 8
  /-- `SK_BYTES_HASHED` (R24). -/
  bytesHashed : Word
  deriving DecidableEq, Repr

/-- The Threefish context (R26). -/
structure CipherCtx where
  /-- `TF_READY`. -/
  ready : Bool
  /-- `TF_NB`. -/
  nb : Width
  /-- `TF_K[0..TF_NW]`: the key words and their parity word (notes/assumptions/3.md). -/
  k : List Word
  /-- `TF_T[0..2]`. -/
  t : Vector Word 3
  deriving DecidableEq, Repr

/-- The operands of the current transaction (R53): two scalars and five byte strings. -/
structure Operands where
  /-- `ARG0`. -/
  arg0 : Word
  /-- `ARG1`. -/
  arg1 : Word
  /-- `D0`. -/
  d0 : List Byte
  /-- `D1`. -/
  d1 : List Byte
  /-- `D2`. -/
  d2 : List Byte
  /-- `D3`. -/
  d3 : List Byte
  /-- `D4`. -/
  d4 : List Byte
  deriving DecidableEq, Repr

/-- A transaction: a command word and its operands (R53). -/
structure Transaction where
  /-- `CMD`. -/
  cmd : CmdWord
  /-- `ARG0`, `ARG1`, `D0` to `D4`. -/
  operands : Operands
  deriving DecidableEq, Repr

/-- The two things the host can do (R172). -/
inductive HostEvent where
  /-- Issue a command. -/
  | command (t : Transaction)
  /-- Assert reset (R161). -/
  | reset
  deriving DecidableEq, Repr

/-- The block: its two contexts (R14, R26), its interface registers (R29), the operands of the transaction it is
performing and what the host has issued and the block has not yet taken (R47, R161). -/
structure State where
  /-- The engine context `SK_*`. -/
  sk : EngineCtx
  /-- The Threefish context `TF_*`. -/
  tf : CipherCtx
  /-- `STATUS` (R29, R63). -/
  status : BitVec 8
  /-- `RDATA` (R29). -/
  rdata : List Byte
  /-- The operands of the transaction being performed (notes/assumptions/5.md). -/
  port : Operands
  /-- The host's commands and resets not yet taken, oldest first (notes/assumptions/6.md). -/
  inputs : List HostEvent
  deriving DecidableEq, Repr

/-- The results a command can report in `STATUS` (R63). -/
inductive Status where
  /-- The command completed. -/
  | ok
  /-- R143. -/
  | invalidArgument
  /-- R144. -/
  | overflow
  /-- Reserved, raised by no command (R145). -/
  | invalidState
  /-- Reserved, raised by no command (R146). -/
  | fatal
  /-- R142. -/
  | illegalCommand
  /-- R147. -/
  | notConfigured
  deriving DecidableEq, Repr

/-- The faults that stop the machine: none. An error of a command is its `STATUS` and the block goes on (R141,
R150 to R152), so no meaning raises a fault and the type has no constructor (notes/assumptions/8.md). -/
inductive Fault where
  deriving DecidableEq, Repr

/-- The reasons a step has no meaning. -/
inductive Refusal where
  /-- A command whose arm in `exec` has no meaning yet; raised by no arm. Safe: the run stops. -/
  | notModelled (mnemonic : String)
  deriving DecidableEq, Repr

/-- The engine context after reset: `SK_READY = 0` (R162); every other register is unspecified, and holds the value
named in notes/assumptions/1.md (DESIGN CHOICE). -/
def EngineCtx.reset : EngineCtx :=
  { ready := false, nb := .w256, digestBits := 0, x := [0, 0, 0, 0], t0 := 0, t1 := 0, buf := [], missing := 0,
    bytesHashed := 0 }

/-- The Threefish context after reset: `TF_READY = 0` (R162); every other register is unspecified, and holds the
value named in notes/assumptions/1.md (DESIGN CHOICE). -/
def CipherCtx.reset : CipherCtx :=
  { ready := false, nb := .w256, k := [0, 0, 0, 0, 0], t := #v[0, 0, 0] }

/-- No operand: two zero scalars and five empty strings. -/
def Operands.none : Operands :=
  { arg0 := 0, arg1 := 0, d0 := [], d1 := [], d2 := [], d3 := [], d4 := [] }

/-- The state after reset (R162): both contexts unconfigured, `STATUS = 0x00` and `RDATA` empty. The host has
issued nothing. -/
def State.reset : State :=
  { sk := EngineCtx.reset, tf := CipherCtx.reset, status := 0x00#8, rdata := [], port := Operands.none, inputs := [] }

end Sys2Proof.Machine
end

