-- ==== Sys2Proof/Machine/Ops.lean ====
section
/-! DEFINITION. The operations the commands share: widths, byte strings and words, answering a command, raising an
error, and taking the host's next event. -/

namespace Sys2Proof

/-! ## Widths (R6, R56) -/

/-- `NW`, the words of a block. -/
def Width.words : Width → Nat
  | .w256 => 4
  | .w512 => 8
  | .w1024 => 16

/-- `NB`, the bytes of a block. -/
def Width.bytes (w : Width) : Nat := 8 * w.words

/-- `NR`, the rounds of Threefish (R71). -/
def Width.rounds : Width → Nat
  | .w256 => 72
  | .w512 => 72
  | .w1024 => 80

/-- The width an `SK_INIT` code selects; `W = 3` selects none (R56). -/
def Width.ofCode (w : BitVec 2) : Option Width :=
  if w = 0#2 then some .w256
  else if w = 1#2 then some .w512
  else if w = 2#2 then some .w1024
  else none

/-- The width a Threefish key of `n` bytes selects; another length selects none (R95). -/
def Width.ofKeyLength (n : Nat) : Option Width :=
  if n = 32 then some .w256
  else if n = 64 then some .w512
  else if n = 128 then some .w1024
  else none

namespace Machine

/-! ## Byte strings and words (R8, R42) -/

/-- `zeros(n)`. -/
def zeros (n : Nat) : List Byte := List.replicate n 0

/-- Byte `i` of a byte string. No rule reads beyond the end of a string; such a byte is 0 here
(notes/assumptions/11.md). -/
def byteAt (s : List Byte) (i : Nat) : Byte := s.getD i 0

/-- Word `i` of a list of words. No rule reads beyond the words a register holds; such a word is 0 here
(notes/assumptions/11.md). -/
def wordAt (ws : List Word) (i : Nat) : Word := ws.getD i 0

/-- `LE64(s, i)`: the word whose bytes, least significant first, are `s[8i..8i+8)`. -/
def le64 (s : List Byte) (i : Nat) : Word :=
  byteAt s (8 * i + 7) ++ byteAt s (8 * i + 6) ++ byteAt s (8 * i + 5) ++ byteAt s (8 * i + 4) ++
    byteAt s (8 * i + 3) ++ byteAt s (8 * i + 2) ++ byteAt s (8 * i + 1) ++ byteAt s (8 * i)

/-- `Words(s)`. -/
def wordsOf (s : List Byte) : List Word := (List.range (s.length / 8)).map (le64 s)

/-- The eight bytes of a word, least significant first. -/
def leBytes (x : Word) : List Byte := (List.range 8).map (fun i => x.extractLsb' (8 * i) 8)

/-- `Bytes(w0..wn-1)`. -/
def bytesOf (ws : List Word) : List Byte := ws.flatMap leBytes

/-- `ceil(a / 8)`, the bytes that `a` bits take. -/
def bytesForBits (a : Nat) : Nat := (a + 7) / 8

/-! ## Contexts -/

/-- `SK_BCNT`, the number of valid bytes in `SK_BUF` (R22). -/
def EngineCtx.bcnt (e : EngineCtx) : Nat := e.buf.length

/-- The state with another engine context. -/
def State.setSk (e : EngineCtx) (s : State) : State := { s with sk := e }

/-- The state with another Threefish context. -/
def State.setTf (c : CipherCtx) (s : State) : State := { s with tf := c }

/-! ## Answering a command (R9, R10, R29) -/

/-- The status codes (R63). -/
def Status.code : Status → BitVec 8
  | .ok => 0x00#8
  | .invalidArgument => 0x01#8
  | .overflow => 0x02#8
  | .invalidState => 0x03#8
  | .fatal => 0x04#8
  | .illegalCommand => 0x05#8
  | .notConfigured => 0x06#8

/-- `Respond(data)` at the end of a command that completes: `STATUS` OK and the response in `RDATA`. -/
def State.respond (data : List Byte) (s : State) : State := { s with status := Status.ok.code, rdata := data }

/-- What an error leaves: its code in `STATUS`, an empty `RDATA`, and every other register as before (R150). -/
def State.fail (e : Status) (s : State) : State := { s with status := e.code, rdata := [] }

/-- The next state of a command that completes with response `data`, from the state `s` its writes leave. -/
def complete (data : List Byte) (s : State) : Host.Outcome State Fault Refusal := .next (s.respond data)

/-- `raise <Error>`: the one way a command reports an error. It transfers no control, saves nothing and changes no
mode (R141, R149 to R151); there is no return from it, and the next command runs normally (R152). -/
def raise (e : Status) (s : State) : Host.Outcome State Fault Refusal := .next (s.fail e)

/-! ## The host's events (R47, R52, R161, R172) -/

/-- A byte string the interface carries: its length is at most `MAX_PAYLOAD_BYTES` (R52). A length the parameter's
least value admits is accepted without looking at the parameter. -/
def payloadFits (n : Nat) : Bool :=
  decide (n ≤ Config.minPayloadBytes) || decide (n ≤ Config.maxPayloadBytes)

/-- Every operand of a transaction fits the interface (R52; notes/assumptions/7.md). -/
def Operands.fit (o : Operands) : Bool :=
  payloadFits o.d0.length && payloadFits o.d1.length && payloadFits o.d2.length && payloadFits o.d3.length &&
    payloadFits o.d4.length

/-- The block begins a transaction: its operands stand on the port, and it is no longer pending. -/
def State.accept (t : Transaction) (rest : List HostEvent) (s : State) : State :=
  { s with port := t.operands, inputs := rest }

/-- The interface refuses a transaction before it reaches the block: no register changes (R52). -/
def State.dropInput (rest : List HostEvent) (s : State) : State := { s with inputs := rest }

/-- Reset takes effect between two commands, and the state it leaves does not depend on any earlier command (R161,
R162); what the host has issued after it is still to come. -/
def afterReset (rest : List HostEvent) : State := { State.reset with inputs := rest }

end Machine

end Sys2Proof
end

