-- ==== Sys2Proof/Machine/Cipher.lean ====
section
/-! DEFINITION. The Threefish cipher: constants, key schedule, rounds, encryption and decryption (R71 to R88). -/

namespace Sys2Proof.Machine

/-! ## Constants -/

/-- The rotation constants of Threefish-256, rows `d = round mod 8`, columns `j` (R73). -/
def rotations256 : List (List Nat) :=
  [[14, 16], [52, 57], [23, 40], [5, 37], [25, 33], [46, 12], [58, 22], [32, 32]]

/-- The rotation constants of Threefish-512 (R74). -/
def rotations512 : List (List Nat) :=
  [[46, 36, 19, 37], [33, 27, 14, 42], [17, 49, 36, 39], [44, 9, 54, 56],
   [39, 30, 34, 24], [13, 50, 10, 17], [25, 29, 39, 43], [8, 35, 56, 22]]

/-- The rotation constants of Threefish-1024 (R75). -/
def rotations1024 : List (List Nat) :=
  [[24, 13, 8, 47, 8, 17, 22, 37], [38, 19, 10, 55, 49, 18, 23, 52],
   [33, 4, 51, 13, 34, 41, 59, 17], [5, 20, 48, 41, 47, 28, 16, 25],
   [41, 9, 37, 31, 12, 47, 44, 30], [16, 34, 56, 51, 4, 53, 42, 41],
   [31, 44, 47, 46, 19, 42, 44, 25], [9, 48, 35, 52, 23, 31, 37, 20]]

/-- The rotation table of a width. -/
def rotations : Width → List (List Nat)
  | .w256 => rotations256
  | .w512 => rotations512
  | .w1024 => rotations1024

/-- The row `R(nw, d mod 8, ·)` that round `d` uses. -/
def rotationRow (w : Width) (d : Nat) : List Nat := (rotations w).getD (d % 8) []

/-- `PI(nw, ·)` (R82). -/
def wordPermutation : Width → List Nat
  | .w256 => [0, 3, 2, 1]
  | .w512 => [2, 1, 4, 7, 6, 5, 0, 3]
  | .w1024 => [0, 9, 2, 13, 6, 11, 4, 15, 10, 7, 12, 3, 14, 5, 8, 1]

/-- `PIinv(nw, ·)` (R83). -/
def wordPermutationInv : Width → List Nat
  | .w256 => [0, 3, 2, 1]
  | .w512 => [6, 1, 0, 7, 2, 5, 4, 3]
  | .w1024 => [0, 15, 2, 11, 6, 13, 4, 9, 14, 1, 8, 5, 10, 3, 12, 7]

/-- The parity constant `C240` (R76). -/
def c240 : Word := 0x1BD11BDAA9FC1A22#64

/-! ## Key schedule -/

/-- `ExtendKey`: the key words, then their XOR with `C240` (R76). -/
def extendKey (k : List Word) : List Word := k ++ [k.foldl (· ^^^ ·) c240]

/-- `ExtendTweak` (R77). -/
def extendTweak (t0 t1 : Word) : Vector Word 3 := #v[t0, t1, t0 ^^^ t1]

/-- Tweak word `s mod 3`. -/
def tweakWord (t : Vector Word 3) (s : Nat) : Word := t[s % 3]'(Nat.mod_lt s (by decide))

/-- What subkey `s` adds to word `i` of the rotated key (R78). -/
def subkeyAddend (w : Width) (t : Vector Word 3) (s i : Nat) : Word :=
  if i = w.words - 3 then tweakWord t s
  else if i = w.words - 2 then tweakWord t (s + 1)
  else if i = w.words - 1 then BitVec.ofNat 64 s
  else 0

/-- `Subkey(nw, K, T, s)` (R78). -/
def subkey (w : Width) (k : List Word) (t : Vector Word 3) (s : Nat) : List Word :=
  (List.range w.words).map fun i => wordAt k ((s + i) % (w.words + 1)) + subkeyAddend w t s i

/-! ## Rounds -/

/-- `rotl64` (R7). -/
def rotl64 (x : Word) (r : Nat) : Word := (x <<< r) ||| (x >>> (64 - r))

/-- `rotr64`, the inverse of `rotl64` (R7). -/
def rotr64 (x : Word) (r : Nat) : Word := rotl64 x (64 - r)

/-- `Mix` (R80). -/
def mix (x0 x1 : Word) (r : Nat) : Word × Word := (x0 + x1, rotl64 x1 r ^^^ (x0 + x1))

/-- `Unmix` (R81). -/
def unmix (y0 y1 : Word) (r : Nat) : Word × Word := (y0 - rotr64 (y1 ^^^ y0) r, rotr64 (y1 ^^^ y0) r)

/-- `Mix` on every pair `(v[2j], v[2j+1])` with the rotation amounts of a row (R84). -/
def mixPairs : List Nat → List Word → List Word
  | r :: rs, x0 :: x1 :: xs => (mix x0 x1 r).1 :: (mix x0 x1 r).2 :: mixPairs rs xs
  | _, xs => xs

/-- `Unmix` on every pair `(f[2j], f[2j+1])` with the rotation amounts of a row (R85). -/
def unmixPairs : List Nat → List Word → List Word
  | r :: rs, y0 :: y1 :: ys => (unmix y0 y1 r).1 :: (unmix y0 y1 r).2 :: unmixPairs rs ys
  | _, ys => ys

/-- The list whose word `i` is word `p[i]` of `f`. -/
def permuteWords (p : List Nat) (f : List Word) : List Word := p.map (wordAt f)

/-- Wordwise addition of a subkey. -/
def addWords (v ks : List Word) : List Word := List.zipWith (· + ·) v ks

/-- Wordwise subtraction of a subkey. -/
def subWords (v ks : List Word) : List Word := List.zipWith (· - ·) v ks

/-- The subkey injection before round `d`: before every fourth round (R79). -/
def injectSubkey (w : Width) (k : List Word) (t : Vector Word 3) (d : Nat) (v : List Word) : List Word :=
  if d % 4 = 0 then addWords v (subkey w k t (d / 4)) else v

/-- Taking the subkey of round `d` back out (R85). -/
def removeSubkey (w : Width) (k : List Word) (t : Vector Word 3) (d : Nat) (v : List Word) : List Word :=
  if d % 4 = 0 then subWords v (subkey w k t (d / 4)) else v

/-- Round `d` of encryption: inject, mix, permute (R84). -/
def encryptRound (w : Width) (k : List Word) (t : Vector Word 3) (v : List Word) (d : Nat) : List Word :=
  permuteWords (wordPermutation w) (mixPairs (rotationRow w d) (injectSubkey w k t d v))

/-- Round `d` of decryption: unpermute, unmix, remove (R85). -/
def decryptRound (w : Width) (k : List Word) (t : Vector Word 3) (d : Nat) (v : List Word) : List Word :=
  removeSubkey w k t d (unmixPairs (rotationRow w d) (permuteWords (wordPermutationInv w) v))

/-- `ThreefishEncrypt(nw, K, T, P)`: rounds 0 to NR-1, then the last subkey (R84). -/
def threefishEncrypt (w : Width) (k : List Word) (t : Vector Word 3) (p : List Word) : List Word :=
  addWords ((List.range w.rounds).foldl (encryptRound w k t) p) (subkey w k t (w.rounds / 4))

/-- `ThreefishDecrypt(nw, K, T, C)`: the last subkey out, then rounds NR-1 down to 0 (R85). -/
def threefishDecrypt (w : Width) (k : List Word) (t : Vector Word 3) (c : List Word) : List Word :=
  (List.range w.rounds).foldr (decryptRound w k t) (subWords c (subkey w k t (w.rounds / 4)))

end Sys2Proof.Machine
end

