-- ==== Sys2Proof/Machine/Flags.lean ====
section
/-! DEFINITION. The flags word of the tweak, `T1`: its fields, the block types and how the flags are set and
cleared (R104, R105, R110). The block has no other flag (R30). -/

namespace Sys2Proof.Machine

/-- The block types of UBI (R105). -/
inductive BlockType where
  /-- The key input of `SK_INIT`. -/
  | key
  /-- The configuration block. -/
  | cfg
  /-- Personalization. -/
  | prs
  /-- Public key. -/
  | pk
  /-- Key identifier. -/
  | kdf
  /-- Nonce. -/
  | non
  /-- The message. -/
  | msg
  /-- Output expansion. -/
  | out
  deriving DecidableEq, Repr

/-- The number of a block type (R105). -/
def BlockType.value : BlockType → Nat
  | .key => 0
  | .cfg => 4
  | .prs => 8
  | .pk => 12
  | .kdf => 16
  | .non => 20
  | .msg => 48
  | .out => 63

/-- `First = 1 << 62`. -/
def firstFlag : Word := 1#64 <<< 62

/-- `Final = 1 << 63`. -/
def finalFlag : Word := 1#64 <<< 63

/-- `BitPad = 1 << 55`. -/
def bitPadFlag : Word := 1#64 <<< 55

/-- `Type(v) = v << 56`. -/
def typeFlags (ty : BlockType) : Word := BitVec.ofNat 64 ty.value <<< 56

/-- The flags word a UBI invocation starts with: `First | Type(v)` (R110). -/
def startFlags (ty : BlockType) : Word := firstFlag ||| typeFlags ty

/-- `T1 | Final`. -/
def setFinal (t1 : Word) : Word := t1 ||| finalFlag

/-- `T1 & ~First`, after each block (R106). -/
def clearFirst (t1 : Word) : Word := t1 &&& ~~~firstFlag

/-- The flags of the last message block: Final, and BitPad when a partial byte is pending (R134). -/
def finalizeFlags (missing : Fin 8) (t1 : Word) : Word :=
  if missing ≠ 0 then setFinal t1 ||| bitPadFlag else setFinal t1

/-- The field `Final`, bit 63. -/
def finalField (t1 : Word) : Bool := t1.getLsbD 63

/-- The field `First`, bit 62. -/
def firstField (t1 : Word) : Bool := t1.getLsbD 62

/-- The field `Type`, bits [61:56]. -/
def typeField (t1 : Word) : BitVec 6 := t1.extractLsb' 56 6

/-- The field `BitPad`, bit 55. -/
def bitPadField (t1 : Word) : Bool := t1.getLsbD 55

/-- The field `TreeLevel`, bits [54:48]. -/
def treeLevelField (t1 : Word) : BitVec 7 := t1.extractLsb' 48 7

/-- The reserved bits [47:32] and the unused position bits [31:0]. -/
def reservedField (t1 : Word) : BitVec 48 := t1.extractLsb' 0 48

end Sys2Proof.Machine
end

