-- ==== Sys2Proof/Machine/Ubi.lean ====
section
/-! DEFINITION. The UBI chaining-state machine: the block processor and the hashing of a whole byte string (R101 to
R115). -/

namespace Sys2Proof.Machine

/-- What the block processor reads and writes: the chaining value and the two tweak words (R106). The third tweak
word and the parity word are computed at each block and never stored (R28, R102). -/
structure Chain where
  /-- The chaining value `X`. -/
  x : List Word
  /-- The position `T0`. -/
  t0 : Word
  /-- The flags `T1`. -/
  t1 : Word
  deriving DecidableEq, Repr

/-- The cipher as the engine uses it: keyed by the chaining value, under the position and the flags (R88). -/
def engineCipher (w : Width) (x : List Word) (t0 t1 : Word) (p : List Word) : List Word :=
  threefishEncrypt w (extendKey x) (extendTweak t0 t1) p

/-- One turn of the loop of `ProcessBlocks` (R106): advance the position by `inc`, encrypt, feed the plaintext
forward (R111), clear First. -/
def processBlock (w : Width) (c : Chain) (block : List Byte) (inc : Nat) : Chain :=
  { x := List.zipWith (· ^^^ ·) (engineCipher w c.x (c.t0 + BitVec.ofNat 64 inc) c.t1 (wordsOf block)) (wordsOf block)
    t0 := c.t0 + BitVec.ofNat 64 inc
    t1 := clearFirst c.t1 }

/-- `ProcessBlocks(NW, X, T0, T1, data, count, inc)` (R106): the first `count` blocks of `data`, in order. -/
def processBlocks (w : Width) (c : Chain) (data : List Byte) : (count : Nat) → (inc : Nat) → Chain
  | 0, _ => c
  | n + 1, inc => processBlocks w (processBlock w c (data.take w.bytes) inc) (data.drop w.bytes) n inc

/-- The number of blocks of a UBI input; an empty input takes one block (R108). -/
def ubiBlocks (w : Width) (m : List Byte) : Nat :=
  if m.length = 0 then 1 else (m.length + w.bytes - 1) / w.bytes

/-- Bytes `n·NB` to `(n+1)·NB - 1` of an input, or as many as there are. -/
def chunkAt (w : Width) (m : List Byte) (n : Nat) : List Byte := (m.drop (n * w.bytes)).take w.bytes

/-- A block padded with zeros to the block width (R44, R108). -/
def padBlock (w : Width) (chunk : List Byte) : List Byte := chunk ++ zeros (w.bytes - chunk.length)

/-- Turn `n` of the loop of `Ubi` (R108): Final on the last block, the count of real bytes as increment. -/
def ubiTurn (w : Width) (m : List Byte) (c : Chain) (n : Nat) : Chain :=
  processBlocks w (if n = ubiBlocks w m - 1 then { c with t1 := setFinal c.t1 } else c)
    (padBlock w (chunkAt w m n)) 1 (chunkAt w m n).length

/-- The chaining value, position and flags a UBI invocation ends with (R108, R109). -/
def ubiChain (w : Width) (g : List Word) (m : List Byte) (ty : BlockType) : Chain :=
  (List.range (ubiBlocks w m)).foldl (ubiTurn w m) { x := g, t0 := 0, t1 := startFlags ty }

/-- `Ubi(NW, G, M, type)` (R108). -/
def ubi (w : Width) (g : List Word) (m : List Byte) (ty : BlockType) : List Word := (ubiChain w g m ty).x

/-- The engine's chaining value and tweak as the block processor takes them (R106). -/
def EngineCtx.chain (e : EngineCtx) : Chain := { x := e.x, t0 := e.t0, t1 := e.t1 }

/-- The engine with the block processor's results written back (R106). -/
def EngineCtx.setChain (c : Chain) (e : EngineCtx) : EngineCtx := { e with x := c.x, t0 := c.t0, t1 := c.t1 }

end Sys2Proof.Machine
end

