-- ==== Sys2Proof/Machine/Operands.lean ====
section
/-! DEFINITION. The operand forms: optional inputs, bit counts, partial bytes, tweaks and digest windows (R57 to
R59, R116, R121, R125, R126, R132). -/

namespace Sys2Proof.Machine

/-- An optional input of `SK_INIT`: present when its `F` bit is set and its operand is not empty (R116). -/
def optionalInput (flag : Bool) (operand : List Byte) : Option (List Byte) :=
  if flag && !operand.isEmpty then some operand else none

/-- The bit count of an update: `ARG0` when `B = 1`, the whole operand otherwise (R58, R121). -/
def updateBits (b : Bool) (o : Operands) : Nat := if b then o.arg0.toNat else 8 * o.d0.length

/-- `PartialByte(b, r)`, for 1 ≤ r ≤ 7: the high `r` bits of `b`, then the terminator bit, then zeros (R43, R125). -/
def partialByte (b : Byte) (r : Nat) : Byte := (b &&& (0xFF#8 <<< (8 - r))) ||| (0x80#8 >>> r)

/-- The high `k` bits of `b` moved to directly after the bits a byte with `miss` missing bits holds (R126). -/
def mergedBits (miss : Nat) (b : Byte) (k : Nat) : Byte :=
  if k = 0 then 0#8 else (b &&& (0xFF#8 <<< (8 - k))) >>> (8 - miss)

/-- The terminator of a byte with `miss` missing bits; a whole byte has none (R126). -/
def terminatorBit (miss : Nat) : Byte := if miss > 0 then 1#8 <<< (miss - 1) else 0#8

/-- `Merge(p, miss, b, k)` (R126). -/
def mergeByte (p : Byte) (miss : Nat) (b : Byte) (k : Nat) : Byte :=
  (p &&& (0xFF#8 <<< miss)) ||| mergedBits miss b k ||| terminatorBit (miss - k)

/-- The bytes of the operand an aligned update absorbs: its whole bytes, then its partial byte if it ends in one
(R127). The bytes beyond `ceil(bit_count / 8)` are ignored (R121). -/
def updateBytes (d : List Byte) (bits : Nat) : List Byte :=
  if bits % 8 ≠ 0 then d.take (bits / 8) ++ [partialByte (byteAt d (bits / 8)) (bits % 8)] else d.take (bits / 8)

/-- The missing bits an aligned update leaves: `8 - r` after a partial byte, as before after none (R127). -/
def updateMissing (missing : Fin 8) (bits : Nat) : Fin 8 :=
  if bits % 8 ≠ 0 then Fin.ofNat 8 (8 - bits % 8) else missing

/-- The tweak a 16-byte operand stands for (R90, R95, R99). -/
def tweakOf (t : List Byte) : Vector Word 3 := extendTweak (le64 t 0) (le64 t 1)

/-- `L`, the digest length in bytes (R132). -/
def digestLength (e : EngineCtx) : Nat := bytesForBits e.digestBits.toNat

/-- The start of a digest window: `ARG0` when `S = 1`, else 0 (R59, R132). -/
def windowStart (startPresent : Bool) (o : Operands) : Nat := if startPresent then o.arg0.toNat else 0

/-- The stop of a digest window: `ARG1` when `E = 1`, else `L` (R59, R132). -/
def windowStop (stopPresent : Bool) (o : Operands) (l : Nat) : Nat := if stopPresent then o.arg1.toNat else l

end Sys2Proof.Machine
end

