-- ==== Sys2Proof/Machine/Configure.lean ====
section
/-! DEFINITION. Configuration of the engine: `SK_INIT` (R116 to R119). -/

namespace Sys2Proof.Machine

/-- `ConfigBlock(db)`: "SHA3", version 1, the digest length in bits, and the sequential tree parameters 0, 0, 0
(R60, R117). -/
def configBlock (db : Word) : List Byte :=
  [0x53#8, 0x48#8, 0x41#8, 0x33#8, 0x01#8, 0x00#8, 0x00#8, 0x00#8] ++ leBytes db ++ zeros 16

/-- The optional inputs of `SK_INIT`, in the order they are hashed (R113, R116). -/
structure InitInputs where
  /-- The key, hashed before the configuration block (R119). -/
  key : Option (List Byte)
  /-- The personalization. -/
  prs : Option (List Byte)
  /-- The public key. -/
  pk : Option (List Byte)
  /-- The key identifier. -/
  kid : Option (List Byte)
  /-- The nonce. -/
  non : Option (List Byte)
  deriving DecidableEq, Repr

/-- The inputs a presence mask takes from the operands (R57, R116). -/
def initInputs (f : InitMask) (o : Operands) : InitInputs :=
  { key := optionalInput f.key o.d0
    prs := optionalInput f.prs o.d1
    pk := optionalInput f.pk o.d2
    kid := optionalInput f.kid o.d3
    non := optionalInput f.non o.d4 }

/-- `if input present: X <- Ubi(NW, X, input, type)`. -/
def ubiIfPresent (w : Width) (input : Option (List Byte)) (ty : BlockType) (x : List Word) : List Word :=
  match input with
  | some m => ubi w x m ty
  | none => x

/-- `InitChain` (R113, R117): key, configuration, personalization, public key, key identifier, nonce. -/
def initChain (w : Width) (db : Word) (inp : InitInputs) : List Word :=
  let x := ubiIfPresent w inp.key .key (List.replicate w.words 0)
  let x := ubi w x (configBlock db) .cfg
  let x := ubiIfPresent w inp.prs .prs x
  let x := ubiIfPresent w inp.pk .pk x
  let x := ubiIfPresent w inp.kid .kdf x
  ubiIfPresent w inp.non .non x

/-- The engine context `SK_INIT` writes (R118). -/
def freshEngine (w : Width) (db : Word) (x : List Word) : EngineCtx :=
  { ready := true, nb := w, digestBits := db, x := x, t0 := 0, t1 := startFlags .msg, buf := [], missing := 0,
    bytesHashed := 0 }

/-- `SK_INIT` (R118). A command with the reserved code `W = 3` is illegal (R64 (3), R142); the decoder never yields
one (notes/assumptions/12.md). -/
def execSkInit (wcode : BitVec 2) (f : InitMask) (s : State) : Host.Outcome State Fault Refusal :=
  match Width.ofCode wcode with
  | none => raise .illegalCommand s
  | some w =>
    if s.port.arg0 = 0 then raise .invalidArgument s
    else complete [] (s.setSk (freshEngine w s.port.arg0 (initChain w s.port.arg0 (initInputs f s.port))))

end Sys2Proof.Machine
end

