-- ==== Sys2Proof/Machine/Digest.lean ====
section
/-! DEFINITION. Finalization and counter-mode output expansion: `SK_DIGEST` (R131 to R140). -/

namespace Sys2Proof.Machine

/-- `RootChain()` (R134): the last message block, zero-padded, with Final set and BitPad when a partial byte is
pending, on a copy of the engine's registers. -/
def rootChain (e : EngineCtx) : List Word :=
  (processBlocks e.nb { e.chain with t1 := finalizeFlags e.missing e.t1 } (padBlock e.nb e.buf) 1 e.bcnt).x

/-- `OutBlock(G, i)` (R135): the counter as eight little-endian bytes, hashed as an output-type UBI from the root. -/
def outBlock (w : Width) (g : List Word) (i : Nat) : List Byte := bytesOf (ubi w g (leBytes (BitVec.ofNat 64 i)) .out)

/-- The output blocks `i0` to `i1` that cover a non-empty window (R136). -/
def outputBlocks (w : Width) (g : List Word) (start stop : Nat) : List Byte :=
  (List.range' (start / w.bytes) ((stop - 1) / w.bytes + 1 - start / w.bytes)).flatMap (outBlock w g)

/-- Bytes `start` to `stop - 1` of the output stream (R135, R136). -/
def outputWindow (w : Width) (g : List Word) (start stop : Nat) : List Byte :=
  ((outputBlocks w g start stop).drop (start - start / w.bytes * w.bytes)).take (stop - start)

/-- The mask of the last digest byte: its high `digest_bits mod 8` bits (R136, R137). -/
def digestMask (r : Nat) : Byte := 0xFF#8 <<< (8 - r)

/-- The window with its last byte masked, when that byte is the digest's last and the digest ends inside it (R137). -/
def maskWindow (e : EngineCtx) (stop : Nat) (r : List Byte) : List Byte :=
  if e.digestBits.toNat % 8 ≠ 0 ∧ stop = digestLength e then
    r.set (r.length - 1) (byteAt r (r.length - 1) &&& digestMask (e.digestBits.toNat % 8))
  else r

/-- The response of `SK_DIGEST` for a window (R136): an empty window is answered without finalizing (R140 (1)). -/
def digestWindow (e : EngineCtx) (start stop : Nat) : List Byte :=
  if start = stop then [] else maskWindow e stop (outputWindow e.nb (rootChain e) start stop)

/-- `SK_DIGEST` (R136). It writes no context register (R131). -/
def execSkDigest (stopPresent startPresent : Bool) (s : State) : Host.Outcome State Fault Refusal :=
  let start := windowStart startPresent s.port
  let stop := windowStop stopPresent s.port (digestLength s.sk)
  if s.sk.ready = false then raise .notConfigured s
  else if start > stop ∨ stop > digestLength s.sk then raise .invalidArgument s
  else complete (digestWindow s.sk start stop) s

end Sys2Proof.Machine
end

