-- ==== Sys2Proof/Machine/Threefish.lean ====
section
/-! DEFINITION. The five commands of the Threefish context (R89 to R100). -/

namespace Sys2Proof.Machine

/-- The Threefish context `TF_SETUP` writes (R95). -/
def freshCipher (w : Width) (key tweak : List Byte) : CipherCtx :=
  { ready := true, nb := w, k := extendKey (wordsOf key), t := tweakOf tweak }

/-- The context with another tweak; the key schedule stays (R99). -/
def CipherCtx.setTweak (tweak : List Byte) (c : CipherCtx) : CipherCtx := { c with t := tweakOf tweak }

/-- The ciphertext of a block under the context (R96). -/
def CipherCtx.encrypt (c : CipherCtx) (block : List Byte) : List Byte :=
  bytesOf (threefishEncrypt c.nb c.k c.t (wordsOf block))

/-- The plaintext of a block under the context (R97). -/
def CipherCtx.decrypt (c : CipherCtx) (block : List Byte) : List Byte :=
  bytesOf (threefishDecrypt c.nb c.k c.t (wordsOf block))

/-- The tweak as its 16 bytes; the derived third word is not returned (R98). -/
def CipherCtx.tweakBytes (c : CipherCtx) : List Byte := bytesOf [tweakWord c.t 0, tweakWord c.t 1]

/-- `TF_SETUP` (R95): the key length is checked before the tweak length. -/
def execTfSetup (s : State) : Host.Outcome State Fault Refusal :=
  match Width.ofKeyLength s.port.d0.length with
  | none => raise .invalidArgument s
  | some w =>
    if s.port.d1.length ≠ 16 then raise .invalidArgument s
    else complete [] (s.setTf (freshCipher w s.port.d0 s.port.d1))

/-- `TF_ENCRYPT` (R96). -/
def execTfEncrypt (s : State) : Host.Outcome State Fault Refusal :=
  if s.tf.ready = false then raise .notConfigured s
  else if s.port.d0.length ≠ s.tf.nb.bytes then raise .invalidArgument s
  else complete (s.tf.encrypt s.port.d0) s

/-- `TF_DECRYPT` (R97). -/
def execTfDecrypt (s : State) : Host.Outcome State Fault Refusal :=
  if s.tf.ready = false then raise .notConfigured s
  else if s.port.d0.length ≠ s.tf.nb.bytes then raise .invalidArgument s
  else complete (s.tf.decrypt s.port.d0) s

/-- `TF_GET_TWEAK` (R98). -/
def execTfGetTweak (s : State) : Host.Outcome State Fault Refusal :=
  if s.tf.ready = false then raise .notConfigured s
  else complete s.tf.tweakBytes s

/-- `TF_SET_TWEAK` (R99). -/
def execTfSetTweak (s : State) : Host.Outcome State Fault Refusal :=
  if s.tf.ready = false then raise .notConfigured s
  else if s.port.d0.length ≠ 16 then raise .invalidArgument s
  else complete [] (s.setTf (s.tf.setTweak s.port.d0))

end Sys2Proof.Machine
end

