-- ==== Sys2Proof/Machine/Update.lean ====
section
/-! DEFINITION. The update engine: the lazy block dispatcher, the two paths and `SK_UPDATE` (R120 to R130). -/

namespace Sys2Proof.Machine

/-- The rest of `Absorb` once the buffer is empty: process every block that at least one byte follows, and keep the
remainder (R124). -/
def absorbBlocks (w : Width) (c : Chain) (m : List Byte) : Chain × List Byte :=
  if m.length > w.bytes then
    (processBlocks w c (m.take ((m.length - 1) / w.bytes * w.bytes)) ((m.length - 1) / w.bytes) w.bytes,
      m.drop ((m.length - 1) / w.bytes * w.bytes))
  else (c, m)

/-- `Absorb(m)` on the chain and the buffered bytes (R124): dispatch is lazy, so a full block stays buffered until
more input follows it. -/
def absorbInto (w : Width) (c : Chain) (buf m : List Byte) : Chain × List Byte :=
  if m.length + buf.length > w.bytes then
    if buf.length > 0 then
      absorbBlocks w (processBlocks w c (buf ++ m.take (w.bytes - buf.length)) 1 w.bytes)
        (m.drop (w.bytes - buf.length))
    else absorbBlocks w c m
  else (c, buf ++ m)

/-- `Absorb(m)` on the engine registers (R124). -/
def absorb (m : List Byte) (e : EngineCtx) : EngineCtx :=
  { e.setChain (absorbInto e.nb e.chain e.buf m).1 with buf := (absorbInto e.nb e.chain e.buf m).2 }

/-- The byte-aligned path after its overflow check (R127). -/
def alignedUpdate (d : List Byte) (bits : Nat) (e : EngineCtx) : EngineCtx :=
  { absorb (updateBytes d bits) e with
    bytesHashed := e.bytesHashed + BitVec.ofNat 64 (bytesForBits bits)
    missing := updateMissing e.missing bits }

/-- The bit-unaligned path: `k` new bits go into the partial byte (R126). -/
def mergeUpdate (d : List Byte) (k : Nat) (e : EngineCtx) : EngineCtx :=
  { e with
    buf := e.buf.set (e.bcnt - 1) (mergeByte (byteAt e.buf (e.bcnt - 1)) e.missing.val (byteAt d 0) k)
    missing := Fin.ofNat 8 (e.missing.val - k) }

/-- `SK_UPDATE` (R128): `NotConfigured`, then the two `InvalidArgument` checks, then `Overflow`, then the writes
(R130). -/
def execSkUpdate (b : Bool) (s : State) : Host.Outcome State Fault Refusal :=
  let bits := updateBits b s.port
  if s.sk.ready = false then raise .notConfigured s
  else if bits > 8 * s.port.d0.length then raise .invalidArgument s
  else if s.sk.missing ≠ 0 then
    if bits > s.sk.missing.val then raise .invalidArgument s
    else complete [] (s.setSk (mergeUpdate s.port.d0 bits s.sk))
  else if s.sk.bytesHashed.toNat + bytesForBits bits ≥ 2 ^ 64 - 1 then raise .overflow s
  else complete [] (s.setSk (alignedUpdate s.port.d0 bits s.sk))

end Sys2Proof.Machine
end

