-- ==== Sys2Proof/Machine/Dispatch.lean ====
section
/-! DEFINITION. exec: one arm for each command. -/

namespace Sys2Proof.Machine

/-- The meaning of a command, performed on the operands that stand on the port (R53). -/
def exec (i : Instr) (s : State) : Host.Outcome State Fault Refusal :=
  match i with
  | .skInit w f => Sys2Proof.Machine.execSkInit w f s
  | .skUpdate b => Sys2Proof.Machine.execSkUpdate b s
  | .skDigest e st => Sys2Proof.Machine.execSkDigest e st s
  | .tfSetup => Sys2Proof.Machine.execTfSetup s
  | .tfEncrypt => Sys2Proof.Machine.execTfEncrypt s
  | .tfDecrypt => Sys2Proof.Machine.execTfDecrypt s
  | .tfGetTweak => Sys2Proof.Machine.execTfGetTweak s
  | .tfSetTweak => Sys2Proof.Machine.execTfSetTweak s

end Sys2Proof.Machine
end

