-- ==== Sys2Proof/Machine/Step.lean ====
section
/-! DEFINITION. One step of the block: it takes the host's next event. -/

namespace Sys2Proof.Machine

/-- A transaction that fits the interface: decode the command word, then perform the command; an illegal word raises
`IllegalCommand` before anything else (R64, R142, R148). -/
def runCommand (cmd : CmdWord) (s : State) : Host.Outcome State Fault Refusal :=
  match decode cmd with
  | .command i => exec i s
  | .illegal _ => raise .illegalCommand s

/-- One step. With no event pending the block waits and no register changes (R151; notes/assumptions/6.md). A
transaction with an operand the interface cannot carry never reaches the block (R52). Every other transaction is
performed whole (R45), and events are taken in the order the host issues them (R47). -/
def step (s : State) : Host.Outcome State Fault Refusal :=
  match s.inputs with
  | [] => .next s
  | .reset :: rest => .next (afterReset rest)
  | .command t :: rest =>
    if t.operands.fit then runCommand t.cmd (s.accept t rest) else .next (s.dropInput rest)

/-- The state in which the host's next event is the command whose table bits are `w`, with the operands that stand
on the port (notes/assumptions/5.md, 6.md). Step takes that event next. -/
def State.withFetchWord (s : State) (nbits w : Nat) : State :=
  { s with inputs := .command { cmd := BitVec.ofNat 32 (w % 2 ^ nbits), operands := s.port } :: s.inputs }

end Sys2Proof.Machine
end

