-- ==== Sys2Proof/Safety.lean ====
section
/-! DEFINITION. The terms claims use: the invariants of the two contexts and of the interface registers, and what a
run shows the host. -/

namespace Sys2Proof.Machine

/-- What a configured engine context satisfies between commands: R25 (1) to (6), the layout of `SK_T1` (R20), the
ranges of R17 and R24, and the NW words of `SK_X` (R18). -/
structure EngineWf (e : EngineCtx) : Prop where
  /-- R25 (1), unbounded. -/
  counted : e.bytesHashed.toNat = e.t0.toNat + e.bcnt
  /-- R25 (2). -/
  aligned : e.t0.toNat % e.nb.bytes = 0
  /-- R25 (3). -/
  lazy : 0 < e.t0.toNat → 1 ≤ e.bcnt
  /-- R25 (4). -/
  first : firstField e.t1 = decide (e.t0 = 0)
  /-- R25 (5), first half. -/
  partialHeld : e.missing ≠ 0 → 1 ≤ e.bcnt
  /-- R25 (5), second half: the terminator bit is set and the bits below it are clear. -/
  terminated : e.missing ≠ 0 →
    byteAt e.buf (e.bcnt - 1) &&& ((1#8 <<< e.missing.val) - 1#8) = 1#8 <<< (e.missing.val - 1)
  /-- R25 (6). -/
  bounded : e.bcnt ≤ e.nb.bytes
  /-- R20: Type is 48. -/
  typeMsg : typeField e.t1 = 48#6
  /-- R20: TreeLevel is 0. -/
  treeLevel : treeLevelField e.t1 = 0#7
  /-- R20: BitPad is 0. -/
  bitPad : bitPadField e.t1 = false
  /-- R20: Final is 0. -/
  final : finalField e.t1 = false
  /-- R20: bits [47:0] are 0. -/
  reserved : reservedField e.t1 = 0#48
  /-- R24: never more than 2^64 - 2. -/
  capped : e.bytesHashed.toNat ≤ 2 ^ 64 - 2
  /-- R17: at least 1. -/
  digestBits : e.digestBits ≠ 0
  /-- R18: NW words. -/
  words : e.x.length = e.nb.words

/-- R25: the invariants hold whenever `SK_READY = 1`. -/
def EngineInv (e : EngineCtx) : Prop := e.ready = true → EngineWf e

/-- What a configured Threefish context satisfies (R26): `TF_NW` key words and their parity word, and
`TF_T[2] = TF_T[0] ^ TF_T[1]`. -/
structure CipherWf (c : CipherCtx) : Prop where
  /-- `TF_K[0..TF_NW]`. -/
  words : c.k.length = c.nb.words + 1
  /-- `TF_K[TF_NW]` is the parity of `TF_K[0..TF_NW-1]`. -/
  parity : c.k = extendKey (c.k.take c.nb.words)
  /-- `TF_T[2] = TF_T[0] ^ TF_T[1]`. -/
  tweak : tweakWord c.t 2 = tweakWord c.t 0 ^^^ tweakWord c.t 1

/-- R26 holds of the Threefish context whenever `TF_READY = 1`. -/
def CipherInv (c : CipherCtx) : Prop := c.ready = true → CipherWf c

/-- The statuses a command can leave: never one of the reserved codes 0x03 and 0x04 nor an unnamed code (R63, R145,
R146), and an error leaves `RDATA` empty (R29). -/
def StatusInv (s : State) : Prop :=
  (∃ c ∈ [Status.ok, .invalidArgument, .overflow, .illegalCommand, .notConfigured], s.status = c.code) ∧
    (s.status ≠ Status.ok.code → s.rdata = [])

/-- The invariant of the whole block. -/
structure BlockInv (s : State) : Prop where
  /-- R20, R25. -/
  engine : EngineInv s.sk
  /-- R26. -/
  cipher : CipherInv s.tf
  /-- R29, R63. -/
  interface : StatusInv s

/-- The operands a command uses; every other operand cleared (the table of R62). -/
def usedOperands (i : Instr) (o : Operands) : Operands :=
  match i with
  | .skInit _ f =>
    { Operands.none with
      arg0 := o.arg0
      d0 := if f.key then o.d0 else []
      d1 := if f.prs then o.d1 else []
      d2 := if f.pk then o.d2 else []
      d3 := if f.kid then o.d3 else []
      d4 := if f.non then o.d4 else [] }
  | .skUpdate b => { Operands.none with arg0 := if b then o.arg0 else 0, d0 := o.d0 }
  | .skDigest e st => { Operands.none with arg0 := if st then o.arg0 else 0, arg1 := if e then o.arg1 else 0 }
  | .tfSetup => { Operands.none with d0 := o.d0, d1 := o.d1 }
  | .tfEncrypt => { Operands.none with d0 := o.d0 }
  | .tfDecrypt => { Operands.none with d0 := o.d0 }
  | .tfGetTweak => Operands.none
  | .tfSetTweak => { Operands.none with d0 := o.d0 }

/-- The causes of `InvalidArgument` (R143), for a command that no earlier check of R148 stops. -/
def invalidArgumentCause (i : Instr) (s : State) : Prop :=
  match i with
  | .skInit _ _ => s.port.arg0 = 0
  | .skUpdate b =>
    updateBits b s.port > 8 * s.port.d0.length ∨
      (s.sk.missing ≠ 0 ∧ updateBits b s.port > s.sk.missing.val)
  | .skDigest e st =>
    windowStart st s.port > windowStop e s.port (digestLength s.sk) ∨
      windowStop e s.port (digestLength s.sk) > digestLength s.sk
  | .tfSetup => s.port.d0.length ∉ [32, 64, 128] ∨ s.port.d1.length ≠ 16
  | .tfEncrypt => s.port.d0.length ≠ s.tf.nb.bytes
  | .tfDecrypt => s.port.d0.length ≠ s.tf.nb.bytes
  | .tfGetTweak => False
  | .tfSetTweak => s.port.d0.length ≠ 16

/-- The commands that need a configured context, and find it unconfigured (R147). -/
def unconfigured (i : Instr) (s : State) : Prop :=
  match i with
  | .skInit _ _ => False
  | .skUpdate _ => s.sk.ready = false
  | .skDigest _ _ => s.sk.ready = false
  | .tfSetup => False
  | .tfEncrypt => s.tf.ready = false
  | .tfDecrypt => s.tf.ready = false
  | .tfGetTweak => s.tf.ready = false
  | .tfSetTweak => s.tf.ready = false

/-- The statuses the table of R63 lets a command report. -/
def possibleStatuses : Instr → List Status
  | .skInit _ _ => [.ok, .invalidArgument, .illegalCommand]
  | .skUpdate _ => [.ok, .invalidArgument, .overflow, .notConfigured]
  | .skDigest _ _ => [.ok, .invalidArgument, .notConfigured]
  | .tfSetup => [.ok, .invalidArgument]
  | .tfEncrypt => [.ok, .invalidArgument, .notConfigured]
  | .tfDecrypt => [.ok, .invalidArgument, .notConfigured]
  | .tfGetTweak => [.ok, .notConfigured]
  | .tfSetTweak => [.ok, .invalidArgument, .notConfigured]

/-- The commands of the Threefish context. -/
def isThreefish : Instr → Bool
  | .skInit _ _ => false
  | .skUpdate _ => false
  | .skDigest _ _ => false
  | .tfSetup => true
  | .tfEncrypt => true
  | .tfDecrypt => true
  | .tfGetTweak => true
  | .tfSetTweak => true

/-- Two states that differ at most in the registers of contexts that are not configured. -/
structure AgreeWhereConfigured (s s' : State) : Prop where
  /-- The same `SK_READY`. -/
  skReady : s.sk.ready = s'.sk.ready
  /-- The same engine, if configured. -/
  sk : s.sk.ready = true → s.sk = s'.sk
  /-- The same `TF_READY`. -/
  tfReady : s.tf.ready = s'.tf.ready
  /-- The same Threefish context, if configured. -/
  tf : s.tf.ready = true → s.tf = s'.tf
  /-- The same `STATUS`. -/
  status : s.status = s'.status
  /-- The same `RDATA`. -/
  rdata : s.rdata = s'.rdata
  /-- The same operands. -/
  port : s.port = s'.port
  /-- The same events to come. -/
  inputs : s.inputs = s'.inputs

/-- The state with the operands of a byte-aligned update of the whole string `m` (`B = 0`). -/
def State.withBytes (m : List Byte) (s : State) : State := { s with port := { s.port with d0 := m } }

/-- The state with the operands of an update of the first `bits` bits of `m` (`B = 1`). -/
def State.withBits (m : List Byte) (bits : Nat) (s : State) : State :=
  { s with port := { s.port with d0 := m, arg0 := BitVec.ofNat 64 bits } }

/-- The state with the operands of a digest of the window from `start` to `stop` (`S = E = 1`). -/
def State.withWindow (start stop : Nat) (s : State) : State :=
  { s with port := { s.port with arg0 := BitVec.ofNat 64 start, arg1 := BitVec.ofNat 64 stop } }

/-- What a command answers the host (R53, R172). -/
structure Response where
  /-- `STATUS`. -/
  status : BitVec 8
  /-- `RDATA`. -/
  rdata : List Byte
  deriving DecidableEq, Repr

/-- The next step performs a command: one is next in the host's stream and the interface carries it. -/
def takesCommand (s : State) : Bool :=
  match s.inputs with
  | .command t :: _ => t.operands.fit
  | _ => false

/-- The observation of a run of `n` steps (R171): the responses in order and the state it ends in. -/
def observe : Nat → State → List Response × State
  | 0, s => ([], s)
  | n + 1, s =>
    match step s with
    | .next s' =>
      (if takesCommand s then { status := s'.status, rdata := s'.rdata } :: (observe n s').1 else (observe n s').1,
        (observe n s').2)
    | .fault _ => ([], s)
    | .refused _ => ([], s)

end Sys2Proof.Machine
end

