-- ==== Sys2Proof/Certificates/Slice0/Obligations.lean ====
section
/-! DEFINITION. The statements about the block, for the provers. -/

open Sys2Proof Sys2Proof.Machine

/-! ## Encoding -/

/-- Decode and encode agree on every well-formed command (R54 to R59 and R64, with the patterns of R68, which the spec
marks as its inference from them). -/
def Obligations.DecodeEncodeRoundTrip : Prop :=
  ∀ i : Instr, i.wellFormed = true → decode (encode i) = .command i

/-- Each legal word has one spelling: it is the encoding of the well-formed command it decodes to (R54 to R59 and R64,
with the patterns of R68, which the spec marks as its inference from them). -/
def Obligations.EncodeOfDecodedWord : Prop :=
  ∀ (cmd : CmdWord) (i : Instr), decode cmd = .command i → i.wellFormed = true ∧ encode i = cmd

/-- R64: the legal set, clause by clause on the bits of the word, and what every other word does. -/
def Obligations.LegalWordsAndIllegalCommand : Prop :=
  ∀ cmd : CmdWord,
    ((∃ i, decode cmd = .command i) ↔
      cmd.extractLsb' 0 8 ∈ [0x01#8, 0x02#8, 0x03#8, 0x10#8, 0x11#8, 0x12#8, 0x13#8, 0x14#8] ∧
      (cmd.extractLsb' 21 11 = 0#11 ∧ cmd.extractLsb' 10 6 = 0#6) ∧
      ((cmd.extractLsb' 0 8 ≠ 0x01#8 → cmd.extractLsb' 8 2 = 0#2) ∧
        (cmd.extractLsb' 0 8 = 0x01#8 → cmd.extractLsb' 8 2 ≠ 3#2)) ∧
      ((cmd.extractLsb' 0 8 ∈ [0x10#8, 0x11#8, 0x12#8, 0x13#8, 0x14#8] → cmd.extractLsb' 16 5 = 0#5) ∧
        (cmd.extractLsb' 0 8 = 0x02#8 → cmd.extractLsb' 17 4 = 0#4) ∧
        (cmd.extractLsb' 0 8 = 0x03#8 → cmd.extractLsb' 18 3 = 0#3))) ∧
    ((¬ ∃ i, decode cmd = .command i) →
      ∀ s : State, runCommand cmd s = .next { s with status := 0x05#8, rdata := [] })

/-- R68, which the spec marks as its inference from R54 to R59 and R64: a word is legal exactly when it has the mask
and match of a row and R64 (3) holds. -/
def Obligations.LegalWordsByMaskAndMatch : Prop :=
  ∀ cmd : CmdWord,
    (∃ i, decode cmd = .command i) ↔
      (∃ row ∈ [(0x00000001#32, 0xFFE0FCFF#32), (0x00000002#32, 0xFFFEFFFF#32), (0x00000003#32, 0xFFFCFFFF#32),
          (0x00000010#32, 0xFFFFFFFF#32), (0x00000011#32, 0xFFFFFFFF#32), (0x00000012#32, 0xFFFFFFFF#32),
          (0x00000013#32, 0xFFFFFFFF#32), (0x00000014#32, 0xFFFFFFFF#32)], cmd &&& row.2 = row.1) ∧
      (cmd.extractLsb' 0 8 ≠ 0x01#8 → cmd.extractLsb' 8 2 = 0#2) ∧
      (cmd.extractLsb' 0 8 = 0x01#8 → cmd.extractLsb' 8 2 ≠ 3#2)

/-- The example encodings (R69, which the spec marks as its inference from R68). -/
def Obligations.ExampleWordsDecode : Prop :=
  decode 0x00000101#32 = .command (.skInit 1#2 ⟨false, false, false, false, false⟩) ∧
  decode 0x00010201#32 = .command (.skInit 2#2 ⟨true, false, false, false, false⟩) ∧
  decode 0x00110001#32 = .command (.skInit 0#2 ⟨true, false, false, false, true⟩) ∧
  decode 0x00000002#32 = .command (.skUpdate false) ∧
  decode 0x00010002#32 = .command (.skUpdate true) ∧
  decode 0x00000003#32 = .command (.skDigest false false) ∧
  decode 0x00030003#32 = .command (.skDigest true true) ∧
  decode 0x00000010#32 = .command .tfSetup ∧
  (∀ i, decode 0x00000301#32 ≠ .command i) ∧ (∀ i, decode 0x00020002#32 ≠ .command i)

/-! ## The step -/

/-- A step runs the decoded command: when the host's next transaction fits the interface and its word decodes to
`i`, the step is `exec i` on its operands, with the rest of the host's stream still pending. -/
def Obligations.StepRunsDecodedCommand : Prop :=
  ∀ (s : State) (t : Transaction) (rest : List HostEvent) (i : Instr),
    s.inputs = .command t :: rest → t.operands.fit = true → decode t.cmd = .command i →
      step s = exec i { s with port := t.operands, inputs := rest }

/-- With no event pending the block waits; an operand longer than `MAX_PAYLOAD_BYTES` keeps the transaction from the
block. Both are conventions of the model (notes/assumptions/6.md and 7.md). -/
def Obligations.StepWithoutACommand : Prop :=
  (∀ s : State, s.inputs = [] → step s = .next s) ∧
  (∀ (s : State) (t : Transaction) (rest : List HostEvent), s.inputs = .command t :: rest →
    (∃ d ∈ [t.operands.d0, t.operands.d1, t.operands.d2, t.operands.d3, t.operands.d4],
      d.length > Config.maxPayloadBytes) →
      step s = .next { s with inputs := rest })

/-- No step of the model faults and none is refused. Of a command the absence of faults is DEDUCED from R141 and R150
to R152 (notes/assumptions/8.md): it completes with a status and the block goes on. The statement is about every
state, so it includes steps whose next state is the model's choice and no rule of the spec: an idle step
(notes/assumptions/6.md) and an oversize transaction (notes/assumptions/7.md). -/
def Obligations.EveryStepAnswersNext : Prop :=
  ∀ s : State, ∃ t, step s = .next t

/-- No command writes what the host has issued. Both fields are the model's: that the operands stay on the port after
a command is a DESIGN CHOICE (notes/assumptions/5.md), and so is the stream of pending events
(notes/assumptions/6.md); the spec names neither as state of the block. -/
def Obligations.CommandsLeaveTheHostsStream : Prop :=
  ∀ (i : Instr) (s t : State), exec i s = .next t → t.port = s.port ∧ t.inputs = s.inputs

/-! ## Reset -/

/-- R162: the four writes of reset, and that no observation of a run depends on the other registers: two states that
agree wherever a context is configured answer every host stream alike. Two parts are the model's choice and not
R162: that a reset leaves the later events pending (notes/assumptions/6.md), and which steps add a response to the
observation (notes/assumptions/14.md). -/
def Obligations.ResetWritesAndUnspecifiedRegisters : Prop :=
  (∀ (s : State) (rest : List HostEvent), s.inputs = .reset :: rest →
    ∃ t, step s = .next t ∧ t.sk.ready = false ∧ t.tf.ready = false ∧ t.status = 0x00#8 ∧ t.rdata = [] ∧
      t.inputs = rest) ∧
  (∀ (n : Nat) (s s' : State), AgreeWhereConfigured s s' → (observe n s).1 = (observe n s').1)

/-- The state after reset: the values R14, R26 and R29 give. -/
def Obligations.ResetStateValues : Prop :=
  State.reset.sk.ready = false ∧ State.reset.tf.ready = false ∧ State.reset.status = 0x00#8 ∧
    State.reset.rdata = []

/-- R163, which the spec marks as its inference from R162 and R148: before a context is configured, only `SK_INIT`
and `TF_SETUP` complete with OK, the others raise `NotConfigured`, only an `SK_INIT` or a `TF_SETUP` that completes
makes its context ready, and illegal words raise `IllegalCommand` in any state. -/
def Obligations.OnlySetupCommandsCompleteAfterReset : Prop :=
  (∀ (i : Instr) (s t : State), s.sk.ready = false → s.tf.ready = false → exec i s = .next t → t.status = 0x00#8 →
    (∃ w f, i = .skInit w f) ∨ i = .tfSetup) ∧
  (∀ s : State, s.sk.ready = false →
    (∀ b, exec (.skUpdate b) s = .next { s with status := 0x06#8, rdata := [] }) ∧
    (∀ e st, exec (.skDigest e st) s = .next { s with status := 0x06#8, rdata := [] }) ∧
    (∀ i t, exec i s = .next t → t.sk.ready = true → (∃ w f, i = .skInit w f) ∧ t.status = 0x00#8)) ∧
  (∀ s : State, s.tf.ready = false →
    (∀ i ∈ [Instr.tfEncrypt, .tfDecrypt, .tfGetTweak, .tfSetTweak],
      exec i s = .next { s with status := 0x06#8, rdata := [] }) ∧
    (∀ i t, exec i s = .next t → t.tf.ready = true → i = .tfSetup ∧ t.status = 0x00#8)) ∧
  (∀ (cmd : CmdWord) (s : State), (¬ ∃ i, decode cmd = .command i) →
    runCommand cmd s = .next { s with status := 0x05#8, rdata := [] })

/-! ## Errors -/

/-- R150: a command that raises any error writes `STATUS` and an empty `RDATA` and no other register. -/
def Obligations.ErrorsWriteNoOtherRegister : Prop :=
  ∀ (cmd : CmdWord) (s t : State), runCommand cmd s = .next t → t.status ≠ 0x00#8 →
    t = { s with status := t.status, rdata := [] }

/-- Every command reports one of the statuses the table of R63 gives it, and only a well-formed command avoids
`IllegalCommand`. -/
def Obligations.StatusesOfEachCommand : Prop :=
  ∀ (i : Instr) (s t : State), exec i s = .next t →
    (∃ c ∈ possibleStatuses i, t.status = c.code) ∧ (t.status = 0x05#8 ↔ i.wellFormed = false)

/-- R143: `InvalidArgument` is raised for exactly the listed causes, by a well-formed command whose context is
configured (the earlier checks of R148). -/
def Obligations.InvalidArgumentExactly : Prop :=
  ∀ (i : Instr) (s t : State), i.wellFormed = true → exec i s = .next t →
    (t.status = 0x01#8 ↔ ¬ unconfigured i s ∧ invalidArgumentCause i s)

/-- R147: `NotConfigured` is raised exactly by the commands that need a context that is not ready. -/
def Obligations.NotConfiguredExactly : Prop :=
  ∀ (i : Instr) (s t : State), exec i s = .next t → (t.status = 0x06#8 ↔ unconfigured i s)

/-- R144: `Overflow` is raised only by `SK_UPDATE` on the byte-aligned path, when the counter would reach 2^64 - 1;
it comes after every other check (R148). -/
def Obligations.OverflowExactly : Prop :=
  ∀ (i : Instr) (s t : State), exec i s = .next t →
    (t.status = 0x02#8 ↔
      ∃ b, i = .skUpdate b ∧ ¬ unconfigured i s ∧ ¬ invalidArgumentCause i s ∧ s.sk.missing = 0 ∧
        s.sk.bytesHashed.toNat + (updateBits b s.port + 7) / 8 ≥ 2 ^ 64 - 1)

/-- Errors are not sticky: what a command does depends on no earlier `STATUS` or `RDATA` (R152). -/
def Obligations.EarlierResponseHasNoEffect : Prop :=
  ∀ (i : Instr) (s : State) (c : BitVec 8) (d : List Byte),
    exec i { s with status := c, rdata := d } = exec i s

/-! ## The two contexts -/

/-- R92: no Threefish command reads or writes an engine register, and no engine command a Threefish register. -/
def Obligations.ContextsAreIndependent : Prop :=
  (∀ (i : Instr) (s t : State), isThreefish i = true → exec i s = .next t →
    t.sk = s.sk ∧ ∀ e : EngineCtx, exec i { s with sk := e } = .next { t with sk := e }) ∧
  (∀ (i : Instr) (s t : State), isThreefish i = false → exec i s = .next t →
    t.tf = s.tf ∧ ∀ c : CipherCtx, exec i { s with tf := c } = .next { t with tf := c })

/-- Operands a command does not use have no effect (the table of R62; R53). -/
def Obligations.UnusedOperandsHaveNoEffect : Prop :=
  ∀ (i : Instr) (s t : State), exec i s = .next t →
    exec i { s with port := usedOperands i s.port } = .next { t with port := usedOperands i s.port }

/-! ## SK_INIT -/

/-- R118: what `SK_INIT` writes, and its two errors. -/
def Obligations.SkInitConfiguresTheEngine : Prop :=
  (∀ (wcode : BitVec 2) (w : Width) (f : InitMask) (s : State),
    (wcode, w) ∈ [(0#2, Width.w256), (1#2, .w512), (2#2, .w1024)] → s.port.arg0 ≠ 0 →
      exec (.skInit wcode f) s =
        .next { s with
          sk := { ready := true, nb := w, digestBits := s.port.arg0,
                  x := initChain w s.port.arg0 (initInputs f s.port),
                  t0 := 0, t1 := 0x7000000000000000#64, buf := [], missing := 0, bytesHashed := 0 },
          status := 0x00#8, rdata := [] }) ∧
  (∀ (wcode : BitVec 2) (f : InitMask) (s : State), wcode ≠ 3#2 → s.port.arg0 = 0 →
    exec (.skInit wcode f) s = .next { s with status := 0x01#8, rdata := [] }) ∧
  (∀ (f : InitMask) (s : State), exec (.skInit 3#2 f) s = .next { s with status := 0x05#8, rdata := [] })

/-- R116: a set bit with an empty operand counts as absent. Stated for each of the five inputs. -/
def Obligations.EmptyOptionalInputIsAbsent : Prop :=
  ∀ (wcode : BitVec 2) (f : InitMask) (s : State),
    (s.port.d0 = [] → exec (.skInit wcode { f with key := true }) s = exec (.skInit wcode { f with key := false }) s) ∧
    (s.port.d1 = [] → exec (.skInit wcode { f with prs := true }) s = exec (.skInit wcode { f with prs := false }) s) ∧
    (s.port.d2 = [] → exec (.skInit wcode { f with pk := true }) s = exec (.skInit wcode { f with pk := false }) s) ∧
    (s.port.d3 = [] → exec (.skInit wcode { f with kid := true }) s = exec (.skInit wcode { f with kid := false }) s) ∧
    (s.port.d4 = [] → exec (.skInit wcode { f with non := true }) s = exec (.skInit wcode { f with non := false }) s)

/-- The configuration block as words (R117): `C0 = 0x0000000133414853`, `C1 = digest_bits`, `C2 = C3 = 0`. -/
def Obligations.ConfigurationBlockWords : Prop :=
  ∀ db : Word, (configBlock db).length = 32 ∧ wordsOf (configBlock db) = [0x0000000133414853#64, db, 0, 0]

/-! ## The block processor and UBI -/

/-- R107, which the spec marks as its inference from R106: one call on `m + n` blocks is a call on the first `m`,
then one on the next `n`. -/
def Obligations.BatchedBlocksEqualSuccessiveCalls : Prop :=
  ∀ (w : Width) (c : Chain) (d e : List Byte) (m n inc : Nat), d.length = m * w.bytes → e.length = n * w.bytes →
    processBlocks w c (d ++ e) (m + n) inc = processBlocks w (processBlocks w c d m inc) e n inc

/-- R109: a UBI invocation ends with the position at the input's length, and (R110) with Final set, First cleared
and its type unchanged. -/
def Obligations.UbiEndsAtTheInputLength : Prop :=
  ∀ (w : Width) (g : List Word) (m : List Byte) (ty : BlockType),
    (ubiChain w g m ty).t0 = BitVec.ofNat 64 m.length ∧
    (ubiChain w g m ty).t1 = (1#64 <<< 63) ||| (BitVec.ofNat 64 ty.value <<< 56)

/-- R100, which the spec marks as its inference from R88 and R96: the standalone cipher and the engine compute the
same function. `TF_ENCRYPT` in the context that `TF_SETUP` makes of the key `Bytes(X)` and the tweak `Bytes(T0, T1)`
returns the block that the block processor feeds forward. -/
def Obligations.StandaloneCipherIsTheEngines : Prop :=
  ∀ (w : Width) (x : List Word) (t0 t1 : Word) (block : List Byte) (s u t : State),
    x.length = w.words → block.length = w.bytes →
    exec .tfSetup { s with port := { s.port with d0 := bytesOf x, d1 := bytesOf [t0, t1] } } = .next u →
    exec .tfEncrypt { u with port := { u.port with d0 := block } } = .next t →
      t.status = 0x00#8 ∧
      (processBlocks w { x := x, t0 := t0, t1 := t1 } block 1 0).x =
        List.zipWith (· ^^^ ·) (wordsOf t.rdata) (wordsOf block)

/-! ## SK_UPDATE -/

/-- R127: an update on the byte-aligned path completes, and this is everything it writes. -/
def Obligations.AlignedUpdateWrites : Prop :=
  ∀ (b : Bool) (s : State), s.sk.ready = true → s.sk.missing = 0 →
    updateBits b s.port ≤ 8 * s.port.d0.length →
    s.sk.bytesHashed.toNat + (updateBits b s.port + 7) / 8 < 2 ^ 64 - 1 →
      exec (.skUpdate b) s =
        .next { s with
          sk := {
            absorb (s.port.d0.take (updateBits b s.port / 8) ++
              (if updateBits b s.port % 8 = 0 then []
                else [partialByte (s.port.d0.getD (updateBits b s.port / 8) 0) (updateBits b s.port % 8)])) s.sk with
              bytesHashed := s.sk.bytesHashed + BitVec.ofNat 64 ((updateBits b s.port + 7) / 8)
              missing := Fin.ofNat 8 (8 - updateBits b s.port % 8) }
          status := 0x00#8, rdata := [] }

/-- The pseudocode of R124 in closed form: `Absorb` processes every block of the buffered and new bytes that at least
one byte follows, without Final, and buffers the rest. That the buffer then holds between 1 and NB bytes the spec
marks as its inference from that pseudocode. -/
def Obligations.AbsorbKeepsTheLastBlock : Prop :=
  ∀ (m : List Byte) (e : EngineCtx), e.buf.length ≤ e.nb.bytes → m ≠ [] →
    (absorb m e).chain =
      processBlocks e.nb e.chain ((e.buf ++ m).take ((e.buf.length + m.length - 1) / e.nb.bytes * e.nb.bytes))
        ((e.buf.length + m.length - 1) / e.nb.bytes) e.nb.bytes ∧
    (absorb m e).buf = (e.buf ++ m).drop ((e.buf.length + m.length - 1) / e.nb.bytes * e.nb.bytes) ∧
    1 ≤ (absorb m e).bcnt ∧ (absorb m e).bcnt ≤ e.nb.bytes

/-- R126: an update on the bit-unaligned path completes, and writes only the partial byte and `SK_MISSING`. -/
def Obligations.MergeUpdateWrites : Prop :=
  ∀ (b : Bool) (s : State), s.sk.ready = true → s.sk.missing ≠ 0 → 1 ≤ s.sk.bcnt →
    updateBits b s.port ≤ 8 * s.port.d0.length → updateBits b s.port ≤ s.sk.missing.val →
      exec (.skUpdate b) s =
        .next { s with
          sk := { s.sk with
            buf := s.sk.buf.take (s.sk.bcnt - 1) ++
              [mergeByte (s.sk.buf.getD (s.sk.bcnt - 1) 0) s.sk.missing.val
                (if updateBits b s.port > 0 then s.port.d0.getD 0 0 else 0) (updateBits b s.port)]
            missing := Fin.ofNat 8 (s.sk.missing.val - updateBits b s.port) }
          status := 0x00#8, rdata := [] }

/-- R43: a partial byte with `r` meaningful bits keeps bits [7:8-r], has its terminator at bit 7-r and bits [6-r:0]
clear. -/
def Obligations.PartialByteShape : Prop :=
  ∀ (b : Byte) (r : Nat), 1 ≤ r → r ≤ 7 →
    (∀ j, 8 - r ≤ j → j ≤ 7 → (partialByte b r).getLsbD j = b.getLsbD j) ∧
    (partialByte b r).getLsbD (7 - r) = true ∧
    (∀ j, j < 7 - r → (partialByte b r).getLsbD j = false)

/-- R126 at the level of one byte: a merge of `k` bits keeps the bits held, puts the high `k` bits of the new byte
after them, and moves the terminator after those, or drops it when the byte is complete. -/
def Obligations.MergeByteShape : Prop :=
  ∀ (p b : Byte) (miss k : Nat), 1 ≤ miss → miss ≤ 7 → k ≤ miss →
    (∀ j, miss ≤ j → j ≤ 7 → (mergeByte p miss b k).getLsbD j = p.getLsbD j) ∧
    (∀ j, miss - k ≤ j → j < miss → (mergeByte p miss b k).getLsbD j = b.getLsbD (j + 8 - miss)) ∧
    (k < miss → (mergeByte p miss b k).getLsbD (miss - k - 1) = true) ∧
    (∀ j, j + 1 < miss - k → (mergeByte p miss b k).getLsbD j = false)

/-- R122: on the bit-unaligned path a count up to `SK_MISSING` is accepted and a larger one is refused, with `B = 0`
every non-empty operand. -/
def Obligations.UnalignedContinuationIsRefused : Prop :=
  (∀ (b : Bool) (s : State), s.sk.ready = true → s.sk.missing ≠ 0 → updateBits b s.port > s.sk.missing.val →
    exec (.skUpdate b) s = .next { s with status := 0x01#8, rdata := [] }) ∧
  (∀ s : State, s.sk.ready = true → s.sk.missing ≠ 0 → s.port.d0 ≠ [] →
    exec (.skUpdate false) s = .next { s with status := 0x01#8, rdata := [] }) ∧
  (∀ (b : Bool) (s : State), s.sk.ready = true → s.sk.missing ≠ 0 → updateBits b s.port ≤ s.sk.missing.val →
    updateBits b s.port ≤ 8 * s.port.d0.length →
      ∃ t, exec (.skUpdate b) s = .next t ∧ t.status = 0x00#8)

/-- R123: an update on the byte-aligned path that would bring the counter to 2^64 - 1 or more raises `Overflow` and
changes nothing; a bit count the operand does not hold is refused first, and the bit-unaligned path never
overflows. -/
def Obligations.OverflowChangesNothing : Prop :=
  (∀ (b : Bool) (s : State), s.sk.ready = true → s.sk.missing = 0 →
    updateBits b s.port ≤ 8 * s.port.d0.length →
    s.sk.bytesHashed.toNat + (updateBits b s.port / 8 + (if updateBits b s.port % 8 ≠ 0 then 1 else 0)) ≥ 2 ^ 64 - 1 →
      exec (.skUpdate b) s = .next { s with status := 0x02#8, rdata := [] }) ∧
  (∀ (b : Bool) (s : State), s.sk.ready = true → updateBits b s.port > 8 * s.port.d0.length →
    exec (.skUpdate b) s = .next { s with status := 0x01#8, rdata := [] }) ∧
  (∀ (b : Bool) (s t : State), s.sk.missing ≠ 0 → exec (.skUpdate b) s = .next t → t.status ≠ 0x02#8)

/-- R129 (1), which the spec marks as its inference from R121 to R128: an empty update of a configured engine changes
nothing on either path and returns OK. -/
def Obligations.EmptyUpdateChangesNothing : Prop :=
  ∀ (b : Bool) (s : State), s.sk.ready = true → EngineWf s.sk → updateBits b s.port = 0 →
    exec (.skUpdate b) s = .next { s with status := 0x00#8, rdata := [] }

/-- Incremental consistency (R114, which the spec marks as its inference from R106 to R109 and R124): two byte-aligned
updates and one update of the joined message complete with OK, and leave the same engine. -/
def Obligations.SplitUpdatesEqualOneUpdate : Prop :=
  ∀ (m n : List Byte) (s : State), s.sk.ready = true → s.sk.missing = 0 → s.sk.bcnt ≤ s.sk.nb.bytes →
    s.sk.bytesHashed.toNat + (m ++ n).length < 2 ^ 64 - 1 →
      ∃ u v t, exec (.skUpdate false) (s.withBytes m) = .next u ∧
        exec (.skUpdate false) (u.withBytes n) = .next v ∧
        exec (.skUpdate false) (s.withBytes (m ++ n)) = .next t ∧
        u.status = 0x00#8 ∧ v.status = 0x00#8 ∧ t.status = 0x00#8 ∧
        v.sk = t.sk

/-- From a fresh engine, one byte-aligned update with `M` and finalization give `Ubi(NW, X, M, Msg)` (R114, which the
spec marks as its inference from R106 to R109 and R124). A partial final byte, whose last block carries BitPad, is
not part of this statement. -/
def Obligations.MessagePathComputesUbi : Prop :=
  ∀ (w : Width) (db : Word) (x : List Word) (m : List Byte) (s t : State),
    s.sk = { ready := true, nb := w, digestBits := db, x := x, t0 := 0, t1 := 0x7000000000000000#64, buf := [],
             missing := 0, bytesHashed := 0 } →
    m.length < 2 ^ 64 - 1 → exec (.skUpdate false) (s.withBytes m) = .next t →
      rootChain t.sk = ubi w x m .msg

/-- Bit granularity: an update that ends after `k` bits of a byte, then one that carries the other `8 - k` bits in
its high positions, complete with OK and leave the engine as one update of the whole bytes, which completes too. -/
def Obligations.PartialThenCompletionEqualsWhole : Prop :=
  ∀ (m : List Byte) (b : Byte) (k : Nat) (s : State), 1 ≤ k → k ≤ 7 →
    s.sk.ready = true → s.sk.missing = 0 → s.sk.bcnt ≤ s.sk.nb.bytes →
    8 * m.length + k < 2 ^ 64 → s.sk.bytesHashed.toNat + (m.length + 1) < 2 ^ 64 - 1 →
      ∃ u v t, exec (.skUpdate true) (s.withBits (m ++ [b]) (8 * m.length + k)) = .next u ∧
        u.sk.missing.val = 8 - k ∧
        exec (.skUpdate true) (u.withBits [b <<< k] (8 - k)) = .next v ∧
        exec (.skUpdate false) (s.withBytes (m ++ [b])) = .next t ∧
        u.status = 0x00#8 ∧ v.status = 0x00#8 ∧ t.status = 0x00#8 ∧
        v.sk = t.sk

/-- R24: the byte counter never decreases but by `SK_INIT`, and never exceeds 2^64 - 2. -/
def Obligations.BytesHashedIsMonotone : Prop :=
  ∀ (i : Instr) (s t : State), exec i s = .next t →
    (∀ w f, i ≠ .skInit w f) → s.sk.bytesHashed.toNat ≤ 2 ^ 64 - 2 →
      s.sk.bytesHashed.toNat ≤ t.sk.bytesHashed.toNat ∧ t.sk.bytesHashed.toNat ≤ 2 ^ 64 - 2

/-! ## SK_DIGEST -/

/-- R136: `SK_DIGEST` answers every window within the digest, and writes no context register (R131); its two
errors. -/
def Obligations.DigestAnswersEveryWindow : Prop :=
  ∀ (e st : Bool) (s : State) (start stop : Nat),
    start = (if st then s.port.arg0.toNat else 0) →
    stop = (if e then s.port.arg1.toNat else (s.sk.digestBits.toNat + 7) / 8) →
      (s.sk.ready = true → start ≤ stop → stop ≤ (s.sk.digestBits.toNat + 7) / 8 →
        exec (.skDigest e st) s = .next { s with status := 0x00#8, rdata := digestWindow s.sk start stop }) ∧
      (s.sk.ready = false → exec (.skDigest e st) s = .next { s with status := 0x06#8, rdata := [] }) ∧
      (s.sk.ready = true → (start > stop ∨ stop > (s.sk.digestBits.toNat + 7) / 8) →
        exec (.skDigest e st) s = .next { s with status := 0x01#8, rdata := [] })

/-- R135, R137: byte by byte, what a digest window holds. Byte `j` of the output stream is byte `j mod NB` of output
block `j div NB`; only byte `L - 1` is ever masked, to its high `digest_bits mod 8` bits. -/
def Obligations.DigestBytesComeFromTheOutputStream : Prop :=
  ∀ (e : EngineCtx) (start stop : Nat), start ≤ stop → stop ≤ (e.digestBits.toNat + 7) / 8 →
    (digestWindow e start stop).length = stop - start ∧
    ∀ j, start ≤ j → j < stop →
      (digestWindow e start stop).getD (j - start) 0 =
        if e.digestBits.toNat % 8 ≠ 0 ∧ j = (e.digestBits.toNat + 7) / 8 - 1 then
          (outBlock e.nb (rootChain e) (j / e.nb.bytes)).getD (j % e.nb.bytes) 0 &&&
            (0xFF#8 <<< (8 - e.digestBits.toNat % 8))
        else (outBlock e.nb (rootChain e) (j / e.nb.bytes)).getD (j % e.nb.bytes) 0

/-- The windowing laws (R139, which the spec marks as its inference from R135 to R137). -/
def Obligations.DigestWindowingLaws : Prop :=
  ∀ (s : State) (a b : Nat), s.sk.ready = true → a ≤ b →
    b ≤ (s.sk.digestBits.toNat + 7) / 8 →
      ∃ p q full : State,
        exec (.skDigest true true) (s.withWindow a b) = .next p ∧
        exec (.skDigest true true) (s.withWindow 0 b) = .next q ∧
        exec (.skDigest false false) s = .next full ∧
        p.status = 0x00#8 ∧ q.status = 0x00#8 ∧ full.status = 0x00#8 ∧
        p.rdata = (q.rdata.take b).drop a ∧
        (b = (s.sk.digestBits.toNat + 7) / 8 → full.rdata = q.rdata)

/-- R138, which the spec marks as its inference from R131 and R134: after a digest every window of the output stream
is answered as before it, whatever operands are then given, and an update continues the message as if the digest had
not been taken. -/
def Obligations.DigestIsRepeatable : Prop :=
  ∀ (e st : Bool) (s t : State) (o : Operands), exec (.skDigest e st) s = .next t →
    (∀ e' st', exec (.skDigest e' st') { t with port := o } = exec (.skDigest e' st') { s with port := o }) ∧
    (∀ b, exec (.skUpdate b) { t with port := o } = exec (.skUpdate b) { s with port := o })

/-- The final block carries BitPad exactly when a partial byte is pending, and Final always (R134). -/
def Obligations.FinalizationFlags : Prop :=
  ∀ (missing : Fin 8) (t1 : Word),
    (finalizeFlags missing t1).getLsbD 63 = true ∧
    (finalizeFlags missing t1).getLsbD 55 = (t1.getLsbD 55 || decide (missing ≠ 0)) ∧
    (∀ j, j ≠ 63 → j ≠ 55 → (finalizeFlags missing t1).getLsbD j = t1.getLsbD j)

/-! ## The cipher -/

/-- R86, which the spec marks as its inference from R81, R83 and R85: decryption inverts encryption, at every width,
for every key, tweak and block. -/
def Obligations.DecryptInvertsEncrypt : Prop :=
  ∀ (w : Width) (k : List Word) (t : Vector Word 3) (p : List Word), p.length = w.words →
    threefishDecrypt w k t (threefishEncrypt w k t p) = p

/-- The other direction: every block is the encryption of its decryption. R97 says that decrypting any block returns
its preimage; the decryption procedure itself (R85) the spec marks as its inference from R78 to R84. -/
def Obligations.EncryptInvertsDecrypt : Prop :=
  ∀ (w : Width) (k : List Word) (t : Vector Word 3) (c : List Word), c.length = w.words →
    threefishEncrypt w k t (threefishDecrypt w k t c) = c

/-- `TF_DECRYPT` of what `TF_ENCRYPT` answered gives the block back: the commands of R96 and R97, and the round trip of
R86, which the spec marks as its inference from R81, R83 and R85. -/
def Obligations.EncryptThenDecryptReturnsTheBlock : Prop :=
  ∀ s : State, s.tf.ready = true → s.port.d0.length = s.tf.nb.bytes →
    ∃ u t, exec .tfEncrypt s = .next u ∧ u.status = 0x00#8 ∧
      exec .tfDecrypt (u.withBytes u.rdata) = .next t ∧ t.status = 0x00#8 ∧ t.rdata = s.port.d0

/-- R42: bytes and words convert back and forth, little-endian, and byte `b[8i]` is the least significant of word
`i`. -/
def Obligations.BytesAndWordsAreInverse : Prop :=
  (∀ ws : List Word, wordsOf (bytesOf ws) = ws) ∧
  (∀ s : List Byte, s.length % 8 = 0 → bytesOf (wordsOf s) = s) ∧
  (∀ (s : List Byte) (i j : Nat), s.length % 8 = 0 → 8 * i + j < s.length → j < 8 →
    ((wordsOf s).getD i 0).extractLsb' (8 * j) 8 = s.getD (8 * i + j) 0)

/-- `Unmix` inverts `Mix` (R81, which the spec marks as its inference from R80), `PIinv` inverts `PI` (R83, its
inference from R82), and every rotation amount lies in 4 to 59 (R87, its inference from R73 to R77). -/
def Obligations.RoundPartsAreInvertible : Prop :=
  (∀ (x0 x1 : Word) (r : Nat), 1 ≤ r → r ≤ 63 → unmix (mix x0 x1 r).1 (mix x0 x1 r).2 r = (x0, x1)) ∧
  (∀ (w : Width) (i : Nat), i < w.words →
    (wordPermutationInv w).getD ((wordPermutation w).getD i 0) 0 = i) ∧
  (∀ (w : Width), ∀ row ∈ rotations w, ∀ r ∈ row, 4 ≤ r ∧ r ≤ 59)

/-- R78: the subkey, word by word. -/
def Obligations.SubkeyWords : Prop :=
  ∀ (w : Width) (k : List Word) (t : Vector Word 3) (s : Nat),
    (subkey w k t s).length = w.words ∧
    (∀ i, i < w.words - 3 → (subkey w k t s).getD i 0 = k.getD ((s + i) % (w.words + 1)) 0) ∧
    (subkey w k t s).getD (w.words - 3) 0 =
      k.getD ((s + (w.words - 3)) % (w.words + 1)) 0 + t.toList.getD (s % 3) 0 ∧
    (subkey w k t s).getD (w.words - 2) 0 =
      k.getD ((s + (w.words - 2)) % (w.words + 1)) 0 + t.toList.getD ((s + 1) % 3) 0 ∧
    (subkey w k t s).getD (w.words - 1) 0 =
      k.getD ((s + (w.words - 1)) % (w.words + 1)) 0 + BitVec.ofNat 64 s

/-- The extended key XORs to the parity constant (R76), whatever the key. -/
def Obligations.ExtendedKeyParity : Prop :=
  ∀ k : List Word, (extendKey k).length = k.length + 1 ∧ (extendKey k).take k.length = k ∧
    (extendKey k).foldl (· ^^^ ·) 0 = 0x1BD11BDAA9FC1A22#64

/-! ## The Threefish commands -/

/-- R95: what `TF_SETUP` writes, and its two errors, the key length first. -/
def Obligations.TfSetupWritesTheContext : Prop :=
  (∀ (w : Width) (s : State), (s.port.d0.length, w) ∈ [(32, Width.w256), (64, .w512), (128, .w1024)] →
    s.port.d1.length = 16 →
      exec .tfSetup s =
        .next { s with
          tf := { ready := true, nb := w, k := extendKey (wordsOf s.port.d0),
                  t := extendTweak (le64 s.port.d1 0) (le64 s.port.d1 1) },
          status := 0x00#8, rdata := [] }) ∧
  (∀ s : State, s.port.d0.length ∉ [32, 64, 128] ∨ s.port.d1.length ≠ 16 →
    exec .tfSetup s = .next { s with status := 0x01#8, rdata := [] })

/-- R96: `TF_ENCRYPT` on a configured context answers the ciphertext and writes no context register; its two errors.
-/
def Obligations.TfEncryptAnswersTheCiphertext : Prop :=
  ∀ s : State,
    (s.tf.ready = true → s.port.d0.length = s.tf.nb.bytes →
      exec .tfEncrypt s =
        .next { s with
          status := 0x00#8
          rdata := bytesOf (threefishEncrypt s.tf.nb s.tf.k s.tf.t (wordsOf s.port.d0)) }) ∧
    (s.tf.ready = false → exec .tfEncrypt s = .next { s with status := 0x06#8, rdata := [] }) ∧
    (s.tf.ready = true → s.port.d0.length ≠ s.tf.nb.bytes →
      exec .tfEncrypt s = .next { s with status := 0x01#8, rdata := [] })

/-- R97: `TF_DECRYPT` on a configured context answers the plaintext and writes no context register; its two errors. -/
def Obligations.TfDecryptAnswersThePlaintext : Prop :=
  ∀ s : State,
    (s.tf.ready = true → s.port.d0.length = s.tf.nb.bytes →
      exec .tfDecrypt s =
        .next { s with
          status := 0x00#8
          rdata := bytesOf (threefishDecrypt s.tf.nb s.tf.k s.tf.t (wordsOf s.port.d0)) }) ∧
    (s.tf.ready = false → exec .tfDecrypt s = .next { s with status := 0x06#8, rdata := [] }) ∧
    (s.tf.ready = true → s.port.d0.length ≠ s.tf.nb.bytes →
      exec .tfDecrypt s = .next { s with status := 0x01#8, rdata := [] })

/-- R98: `TF_GET_TWEAK` answers the two tweak words as 16 bytes; its one error. -/
def Obligations.TfGetTweakAnswersTheTweak : Prop :=
  ∀ s : State,
    (s.tf.ready = true →
      exec .tfGetTweak s = .next { s with status := 0x00#8, rdata := bytesOf [s.tf.t[0], s.tf.t[1]] } ∧
        (bytesOf [s.tf.t[0], s.tf.t[1]]).length = 16) ∧
    (s.tf.ready = false → exec .tfGetTweak s = .next { s with status := 0x06#8, rdata := [] })

/-- R99: `TF_SET_TWEAK` replaces the tweak and nothing else; its two errors. -/
def Obligations.TfSetTweakReplacesTheTweak : Prop :=
  ∀ s : State,
    (s.tf.ready = true → s.port.d0.length = 16 →
      exec .tfSetTweak s =
        .next { s with
          tf := { s.tf with t := extendTweak (le64 s.port.d0 0) (le64 s.port.d0 1) }
          status := 0x00#8, rdata := [] }) ∧
    (s.tf.ready = false → exec .tfSetTweak s = .next { s with status := 0x06#8, rdata := [] }) ∧
    (s.tf.ready = true → s.port.d0.length ≠ 16 →
      exec .tfSetTweak s = .next { s with status := 0x01#8, rdata := [] })

/-- `TF_GET_TWEAK` answers the 16 bytes that `TF_SET_TWEAK` or `TF_SETUP` was given (R70, R95, R98, R99). -/
def Obligations.TweakReadsBackAsWritten : Prop :=
  (∀ s u t : State, exec .tfSetTweak s = .next u → u.status = 0x00#8 → exec .tfGetTweak u = .next t →
    t.status = 0x00#8 ∧ t.rdata = s.port.d0) ∧
  (∀ s u t : State, exec .tfSetup s = .next u → u.status = 0x00#8 → exec .tfGetTweak u = .next t →
    t.status = 0x00#8 ∧ t.rdata = s.port.d1)

/-! ## Invariants -/

/-- The invariant of the block holds after reset: both contexts are unconfigured (R162), so R25, which the spec marks
as its inference from R118, R122 to R127 and R106, and R26 ask nothing of them. -/
def Obligations.BlockInvariantAtReset : Prop := BlockInv State.reset

/-- R25, which the spec marks as its inference from R118, R122 to R127 and R106 (with the ranges of R17, R18, R20 and
R24): every step keeps the invariants of the engine context. -/
def Obligations.EngineInvariantIsKept : Prop :=
  ∀ s t : State, EngineInv s.sk → step s = .next t → EngineInv t.sk

/-- R26: every step keeps the legal values of the Threefish context. -/
def Obligations.CipherInvariantIsKept : Prop :=
  ∀ s t : State, CipherInv s.tf → step s = .next t → CipherInv t.tf

/-- R29, R63: every step leaves a status that a command can report, and an error an empty response. -/
def Obligations.StatusInvariantIsKept : Prop :=
  ∀ s t : State, StatusInv s → step s = .next t → StatusInv t
end

