-- ==== Sys2Proof/Laws/State.lean ====
section
/-! SUPPORT. The fields of every update of the state, one lemma a field, so that no proof unfolds a record update. -/

namespace Sys2Proof.Machine

/-! ## `State.setSk` -/

@[simp] theorem State.setSk_sk (e : EngineCtx) (s : State) : (s.setSk e).sk = e := rfl
@[simp] theorem State.setSk_tf (e : EngineCtx) (s : State) : (s.setSk e).tf = s.tf := rfl
@[simp] theorem State.setSk_status (e : EngineCtx) (s : State) : (s.setSk e).status = s.status := rfl
@[simp] theorem State.setSk_rdata (e : EngineCtx) (s : State) : (s.setSk e).rdata = s.rdata := rfl
@[simp] theorem State.setSk_port (e : EngineCtx) (s : State) : (s.setSk e).port = s.port := rfl
@[simp] theorem State.setSk_inputs (e : EngineCtx) (s : State) : (s.setSk e).inputs = s.inputs := rfl

/-! ## `State.setTf` -/

@[simp] theorem State.setTf_sk (c : CipherCtx) (s : State) : (s.setTf c).sk = s.sk := rfl
@[simp] theorem State.setTf_tf (c : CipherCtx) (s : State) : (s.setTf c).tf = c := rfl
@[simp] theorem State.setTf_status (c : CipherCtx) (s : State) : (s.setTf c).status = s.status := rfl
@[simp] theorem State.setTf_rdata (c : CipherCtx) (s : State) : (s.setTf c).rdata = s.rdata := rfl
@[simp] theorem State.setTf_port (c : CipherCtx) (s : State) : (s.setTf c).port = s.port := rfl
@[simp] theorem State.setTf_inputs (c : CipherCtx) (s : State) : (s.setTf c).inputs = s.inputs := rfl

/-! ## `State.respond` -/

@[simp] theorem State.respond_sk (d : List Byte) (s : State) : (s.respond d).sk = s.sk := rfl
@[simp] theorem State.respond_tf (d : List Byte) (s : State) : (s.respond d).tf = s.tf := rfl
@[simp] theorem State.respond_status (d : List Byte) (s : State) : (s.respond d).status = Status.ok.code := rfl
@[simp] theorem State.respond_rdata (d : List Byte) (s : State) : (s.respond d).rdata = d := rfl
@[simp] theorem State.respond_port (d : List Byte) (s : State) : (s.respond d).port = s.port := rfl
@[simp] theorem State.respond_inputs (d : List Byte) (s : State) : (s.respond d).inputs = s.inputs := rfl

/-! ## `State.fail` -/

@[simp] theorem State.fail_sk (e : Status) (s : State) : (s.fail e).sk = s.sk := rfl
@[simp] theorem State.fail_tf (e : Status) (s : State) : (s.fail e).tf = s.tf := rfl
@[simp] theorem State.fail_status (e : Status) (s : State) : (s.fail e).status = e.code := rfl
@[simp] theorem State.fail_rdata (e : Status) (s : State) : (s.fail e).rdata = [] := rfl
@[simp] theorem State.fail_port (e : Status) (s : State) : (s.fail e).port = s.port := rfl
@[simp] theorem State.fail_inputs (e : Status) (s : State) : (s.fail e).inputs = s.inputs := rfl

/-! ## `State.accept` -/

@[simp] theorem State.accept_sk (t : Transaction) (r : List HostEvent) (s : State) : (s.accept t r).sk = s.sk := rfl
@[simp] theorem State.accept_tf (t : Transaction) (r : List HostEvent) (s : State) : (s.accept t r).tf = s.tf := rfl
@[simp] theorem State.accept_status (t : Transaction) (r : List HostEvent) (s : State) :
    (s.accept t r).status = s.status := rfl
@[simp] theorem State.accept_rdata (t : Transaction) (r : List HostEvent) (s : State) :
    (s.accept t r).rdata = s.rdata := rfl
@[simp] theorem State.accept_port (t : Transaction) (r : List HostEvent) (s : State) :
    (s.accept t r).port = t.operands := rfl
@[simp] theorem State.accept_inputs (t : Transaction) (r : List HostEvent) (s : State) :
    (s.accept t r).inputs = r := rfl

/-! ## `State.dropInput` -/

@[simp] theorem State.dropInput_sk (r : List HostEvent) (s : State) : (s.dropInput r).sk = s.sk := rfl
@[simp] theorem State.dropInput_tf (r : List HostEvent) (s : State) : (s.dropInput r).tf = s.tf := rfl
@[simp] theorem State.dropInput_status (r : List HostEvent) (s : State) : (s.dropInput r).status = s.status := rfl
@[simp] theorem State.dropInput_rdata (r : List HostEvent) (s : State) : (s.dropInput r).rdata = s.rdata := rfl
@[simp] theorem State.dropInput_port (r : List HostEvent) (s : State) : (s.dropInput r).port = s.port := rfl
@[simp] theorem State.dropInput_inputs (r : List HostEvent) (s : State) : (s.dropInput r).inputs = r := rfl

/-! ## `afterReset` -/

@[simp] theorem afterReset_sk (r : List HostEvent) : (afterReset r).sk = EngineCtx.reset := rfl
@[simp] theorem afterReset_tf (r : List HostEvent) : (afterReset r).tf = CipherCtx.reset := rfl
@[simp] theorem afterReset_status (r : List HostEvent) : (afterReset r).status = Status.ok.code := rfl
@[simp] theorem afterReset_rdata (r : List HostEvent) : (afterReset r).rdata = [] := rfl
@[simp] theorem afterReset_port (r : List HostEvent) : (afterReset r).port = Operands.none := rfl
@[simp] theorem afterReset_inputs (r : List HostEvent) : (afterReset r).inputs = r := rfl

/-! ## The engine context -/

@[simp] theorem EngineCtx.setChain_ready (c : Chain) (e : EngineCtx) : (e.setChain c).ready = e.ready := rfl
@[simp] theorem EngineCtx.setChain_nb (c : Chain) (e : EngineCtx) : (e.setChain c).nb = e.nb := rfl
@[simp] theorem EngineCtx.setChain_digestBits (c : Chain) (e : EngineCtx) :
    (e.setChain c).digestBits = e.digestBits := rfl
@[simp] theorem EngineCtx.setChain_x (c : Chain) (e : EngineCtx) : (e.setChain c).x = c.x := rfl
@[simp] theorem EngineCtx.setChain_t0 (c : Chain) (e : EngineCtx) : (e.setChain c).t0 = c.t0 := rfl
@[simp] theorem EngineCtx.setChain_t1 (c : Chain) (e : EngineCtx) : (e.setChain c).t1 = c.t1 := rfl
@[simp] theorem EngineCtx.setChain_buf (c : Chain) (e : EngineCtx) : (e.setChain c).buf = e.buf := rfl
@[simp] theorem EngineCtx.setChain_missing (c : Chain) (e : EngineCtx) : (e.setChain c).missing = e.missing := rfl
@[simp] theorem EngineCtx.setChain_bytesHashed (c : Chain) (e : EngineCtx) :
    (e.setChain c).bytesHashed = e.bytesHashed := rfl
@[simp] theorem EngineCtx.chain_setChain (c : Chain) (e : EngineCtx) : (e.setChain c).chain = c := rfl
@[simp] theorem EngineCtx.setChain_chain (e : EngineCtx) : e.setChain e.chain = e := rfl
@[simp] theorem EngineCtx.chain_x (e : EngineCtx) : e.chain.x = e.x := rfl
@[simp] theorem EngineCtx.chain_t0 (e : EngineCtx) : e.chain.t0 = e.t0 := rfl
@[simp] theorem EngineCtx.chain_t1 (e : EngineCtx) : e.chain.t1 = e.t1 := rfl

@[simp] theorem absorb_ready (m : List Byte) (e : EngineCtx) : (absorb m e).ready = e.ready := rfl
@[simp] theorem absorb_nb (m : List Byte) (e : EngineCtx) : (absorb m e).nb = e.nb := rfl
@[simp] theorem absorb_digestBits (m : List Byte) (e : EngineCtx) : (absorb m e).digestBits = e.digestBits := rfl
@[simp] theorem absorb_missing (m : List Byte) (e : EngineCtx) : (absorb m e).missing = e.missing := rfl
@[simp] theorem absorb_bytesHashed (m : List Byte) (e : EngineCtx) : (absorb m e).bytesHashed = e.bytesHashed := rfl
@[simp] theorem absorb_chain (m : List Byte) (e : EngineCtx) :
    (absorb m e).chain = (absorbInto e.nb e.chain e.buf m).1 := rfl
@[simp] theorem absorb_buf (m : List Byte) (e : EngineCtx) :
    (absorb m e).buf = (absorbInto e.nb e.chain e.buf m).2 := rfl

/-! ## The Threefish context -/

@[simp] theorem CipherCtx.setTweak_ready (t : List Byte) (c : CipherCtx) : (c.setTweak t).ready = c.ready := rfl
@[simp] theorem CipherCtx.setTweak_nb (t : List Byte) (c : CipherCtx) : (c.setTweak t).nb = c.nb := rfl
@[simp] theorem CipherCtx.setTweak_k (t : List Byte) (c : CipherCtx) : (c.setTweak t).k = c.k := rfl
@[simp] theorem CipherCtx.setTweak_t (t : List Byte) (c : CipherCtx) : (c.setTweak t).t = tweakOf t := rfl

end Sys2Proof.Machine
end

