-- ==== Sys2Proof/Laws/Ops.lean ====
section
/-! SUPPORT. What the shared operations do: answering and raising, the interface's limit, widths, and the lengths of
byte strings and word lists. -/

namespace Sys2Proof

theorem Width.words_cases (w : Width) : w.words = 4 ∨ w.words = 8 ∨ w.words = 16 := by cases w <;> simp [words]

theorem Width.bytes_eq (w : Width) : w.bytes = 8 * w.words := rfl

theorem Width.bytes_pos (w : Width) : 0 < w.bytes := by cases w <;> decide

theorem Width.bytes_le (w : Width) : w.bytes ≤ 128 := by cases w <;> decide

theorem Width.ofCode_eq_none_iff (c : BitVec 2) : Width.ofCode c = none ↔ c = 3#2 := by revert c; decide

theorem Width.ofKeyLength_eq_none_iff (n : Nat) : Width.ofKeyLength n = none ↔ n ∉ [32, 64, 128] := by
  unfold Width.ofKeyLength
  split_ifs <;> simp_all

theorem Width.ofKeyLength_eq_some (n : Nat) (w : Width) : Width.ofKeyLength n = some w ↔ n = w.bytes := by
  unfold Width.ofKeyLength
  cases w <;> split_ifs <;> simp_all [Width.bytes, Width.words]

namespace Machine

/-! ## Ending a command -/

@[simp] theorem complete_eq_next (d : List Byte) (s t : State) : complete d s = .next t ↔ t = s.respond d := by
  simp [complete, eq_comm]

@[simp] theorem raise_eq_next (e : Status) (s t : State) : raise e s = .next t ↔ t = s.fail e := by
  simp [raise, eq_comm]

theorem Status.code_injective (c d : Status) : c.code = d.code ↔ c = d := by
  cases c <;> cases d <;> decide

/-- A response overwrites an earlier one. -/
theorem State.respond_of_response (d d' : List Byte) (c : BitVec 8) (s : State) :
    State.respond d { s with status := c, rdata := d' } = s.respond d := rfl

/-- An error overwrites an earlier response. -/
theorem State.fail_of_response (e : Status) (d' : List Byte) (c : BitVec 8) (s : State) :
    State.fail e { s with status := c, rdata := d' } = s.fail e := rfl

/-! ## The interface's limit -/

theorem payloadFits_iff (n : Nat) : payloadFits n = true ↔ n ≤ Config.maxPayloadBytes := by
  rw [payloadFits, Bool.or_eq_true, decide_eq_true_iff, decide_eq_true_iff]
  simp only [Config.maxPayloadBytes, Config.minPayloadBytes]
  omega

theorem Operands.fit_iff (o : Operands) :
    o.fit = true ↔ ∀ d ∈ [o.d0, o.d1, o.d2, o.d3, o.d4], d.length ≤ Config.maxPayloadBytes := by
  simp [Operands.fit, payloadFits_iff, and_assoc]

/-! ## Byte strings and words -/

@[simp] theorem length_zeros (n : Nat) : (zeros n).length = n := by simp [zeros]

@[simp] theorem length_leBytes (x : Word) : (leBytes x).length = 8 := rfl

@[simp] theorem length_wordsOf (s : List Byte) : (wordsOf s).length = s.length / 8 := by simp [wordsOf]

@[simp] theorem length_bytesOf (ws : List Word) : (bytesOf ws).length = 8 * ws.length := by
  induction ws with
  | nil => rfl
  | cons x xs ih => simp only [bytesOf, List.flatMap_cons, List.length_append, List.length_cons] at *; simp [ih]; omega

theorem byteAt_append_left (s t : List Byte) (i : Nat) (h : i < s.length) : byteAt (s ++ t) i = byteAt s i := by
  simp [byteAt, List.getD_eq_getElem?_getD, List.getElem?_append_left h]

theorem byteAt_append_right (s t : List Byte) (i : Nat) (h : s.length ≤ i) :
    byteAt (s ++ t) i = byteAt t (i - s.length) := by
  simp [byteAt, List.getD_eq_getElem?_getD, List.getElem?_append_right h]

end Machine

end Sys2Proof
end

