-- ==== Sys2Proof/Laws/Cipher.lean ====
section
/-! SUPPORT. What the parts of the cipher do to the number of words, and how its rounds unfold. -/

namespace Sys2Proof.Machine

@[simp] theorem length_extendKey (k : List Word) : (extendKey k).length = k.length + 1 := by simp [extendKey]

@[simp] theorem length_subkey (w : Width) (k : List Word) (t : Vector Word 3) (s : Nat) :
    (subkey w k t s).length = w.words := by simp [subkey]

@[simp] theorem length_mixPairs (rs : List Nat) (v : List Word) : (mixPairs rs v).length = v.length := by
  fun_induction mixPairs rs v <;> simp_all

@[simp] theorem length_unmixPairs (rs : List Nat) (v : List Word) : (unmixPairs rs v).length = v.length := by
  fun_induction unmixPairs rs v <;> simp_all

@[simp] theorem length_permuteWords (p : List Nat) (f : List Word) : (permuteWords p f).length = p.length := by
  simp [permuteWords]

@[simp] theorem length_wordPermutation (w : Width) : (wordPermutation w).length = w.words := by cases w <;> rfl

@[simp] theorem length_wordPermutationInv (w : Width) : (wordPermutationInv w).length = w.words := by cases w <;> rfl

@[simp] theorem length_addWords (v ks : List Word) : (addWords v ks).length = min v.length ks.length := by
  simp [addWords]

@[simp] theorem length_subWords (v ks : List Word) : (subWords v ks).length = min v.length ks.length := by
  simp [subWords]

theorem length_injectSubkey (w : Width) (k : List Word) (t : Vector Word 3) (d : Nat) (v : List Word)
    (h : v.length = w.words) : (injectSubkey w k t d v).length = w.words := by
  unfold injectSubkey
  split <;> simp [h]

theorem length_removeSubkey (w : Width) (k : List Word) (t : Vector Word 3) (d : Nat) (v : List Word)
    (h : v.length = w.words) : (removeSubkey w k t d v).length = w.words := by
  unfold removeSubkey
  split <;> simp [h]

@[simp] theorem length_encryptRound (w : Width) (k : List Word) (t : Vector Word 3) (v : List Word) (d : Nat) :
    (encryptRound w k t v d).length = w.words := by simp [encryptRound]

theorem length_decryptRound (w : Width) (k : List Word) (t : Vector Word 3) (d : Nat) (v : List Word) :
    (decryptRound w k t d v).length = w.words := length_removeSubkey _ _ _ _ _ (by simp)

/-- The rounds keep a block of NW words. -/
theorem length_encryptRounds (w : Width) (k : List Word) (t : Vector Word 3) (ds : List Nat) (p : List Word)
    (h : p.length = w.words) : (ds.foldl (encryptRound w k t) p).length = w.words := by
  induction ds generalizing p with
  | nil => exact h
  | cons d ds ih => exact ih _ (by simp)

/-- The rounds of decryption keep a block of NW words. -/
theorem length_decryptRounds (w : Width) (k : List Word) (t : Vector Word 3) (ds : List Nat) (c : List Word)
    (h : c.length = w.words) : (ds.foldr (decryptRound w k t) c).length = w.words := by
  cases ds with
  | nil => exact h
  | cons d ds => exact length_decryptRound _ _ _ _ _

theorem length_threefishEncrypt (w : Width) (k : List Word) (t : Vector Word 3) (p : List Word)
    (h : p.length = w.words) : (threefishEncrypt w k t p).length = w.words := by
  simp [threefishEncrypt, length_encryptRounds w k t _ p h]

theorem length_threefishDecrypt (w : Width) (k : List Word) (t : Vector Word 3) (c : List Word)
    (h : c.length = w.words) : (threefishDecrypt w k t c).length = w.words :=
  length_decryptRounds _ _ _ _ _ (by simp [h])

/-- Every row of a rotation table has one amount for each pair of words. -/
theorem length_rotationRow (w : Width) (d : Nat) : (rotationRow w d).length = w.words / 2 := by
  have h : d % 8 < 8 := Nat.mod_lt _ (by decide)
  unfold rotationRow
  generalize d % 8 = r at h
  cases w <;> interval_cases r <;> rfl

end Sys2Proof.Machine
end

