-- ==== Sys2Proof/Laws/Ubi.lean ====
section
/-! SUPPORT. The block processor one block at a time, and the widths of what it leaves. -/

namespace Sys2Proof.Machine

@[simp] theorem processBlock_t0 (w : Width) (c : Chain) (b : List Byte) (inc : Nat) :
    (processBlock w c b inc).t0 = c.t0 + BitVec.ofNat 64 inc := rfl

@[simp] theorem processBlock_t1 (w : Width) (c : Chain) (b : List Byte) (inc : Nat) :
    (processBlock w c b inc).t1 = clearFirst c.t1 := rfl

theorem processBlock_x (w : Width) (c : Chain) (b : List Byte) (inc : Nat) :
    (processBlock w c b inc).x =
      List.zipWith (· ^^^ ·) (engineCipher w c.x (c.t0 + BitVec.ofNat 64 inc) c.t1 (wordsOf b)) (wordsOf b) := rfl

@[simp] theorem processBlocks_zero (w : Width) (c : Chain) (d : List Byte) (inc : Nat) :
    processBlocks w c d 0 inc = c := rfl

theorem processBlocks_succ (w : Width) (c : Chain) (d : List Byte) (n inc : Nat) :
    processBlocks w c d (n + 1) inc =
      processBlocks w (processBlock w c (d.take w.bytes) inc) (d.drop w.bytes) n inc := rfl

theorem processBlocks_one (w : Width) (c : Chain) (d : List Byte) (inc : Nat) :
    processBlocks w c d 1 inc = processBlock w c (d.take w.bytes) inc := rfl

/-- A processed block of full width leaves NW words, whatever the chaining value before. -/
theorem length_processBlock_x (w : Width) (c : Chain) (b : List Byte) (inc : Nat) (h : b.length = w.bytes) :
    (processBlock w c b inc).x.length = w.words := by
  have hb : (wordsOf b).length = w.words := by rw [length_wordsOf, h, Width.bytes]; omega
  simp [processBlock_x, engineCipher, length_threefishEncrypt, hb]

/-- A batch moves the position by `count · inc`. -/
theorem processBlocks_t0 (w : Width) (c : Chain) (d : List Byte) (n inc : Nat) :
    (processBlocks w c d n inc).t0 = c.t0 + BitVec.ofNat 64 (n * inc) := by
  induction n generalizing c d with
  | zero => simp
  | succ n ih =>
    rw [processBlocks_succ, ih, processBlock_t0, Nat.succ_mul, BitVec.add_assoc, ← BitVec.ofNat_add, Nat.add_comm inc]

theorem clearFirst_clearFirst (t : Word) : clearFirst (clearFirst t) = clearFirst t := by
  simp [clearFirst, BitVec.and_assoc]

/-- A non-empty batch clears First and leaves the other flags. -/
theorem processBlocks_t1 (w : Width) (c : Chain) (d : List Byte) (n inc : Nat) (h : n ≠ 0) :
    (processBlocks w c d n inc).t1 = clearFirst c.t1 := by
  induction n generalizing c d with
  | zero => exact absurd rfl h
  | succ n ih =>
    rw [processBlocks_succ]
    cases n with
    | zero => rfl
    | succ n => rw [ih _ _ (Nat.succ_ne_zero n), processBlock_t1, clearFirst_clearFirst]

/-- A non-empty batch of whole blocks leaves NW words. -/
theorem length_processBlocks_x (w : Width) (c : Chain) (d : List Byte) (n inc : Nat) (h : n ≠ 0)
    (hd : n * w.bytes ≤ d.length) : (processBlocks w c d n inc).x.length = w.words := by
  induction n generalizing c d with
  | zero => exact absurd rfl h
  | succ n ih =>
    rw [processBlocks_succ]
    rw [Nat.succ_mul] at hd
    cases n with
    | zero => exact length_processBlock_x _ _ _ _ (by simp; omega)
    | succ n => exact ih _ _ (Nat.succ_ne_zero n) (by simp; omega)

/-- Only the blocks a batch processes matter. -/
theorem processBlocks_append (w : Width) (c : Chain) (d e : List Byte) (n inc : Nat) (h : d.length = n * w.bytes) :
    processBlocks w c (d ++ e) n inc = processBlocks w c d n inc := by
  induction n generalizing c d with
  | zero => rfl
  | succ n ih =>
    rw [Nat.succ_mul] at h
    rw [processBlocks_succ, processBlocks_succ, List.take_append_of_le_length (by omega),
      List.drop_append_of_le_length (by omega), ih _ _ (by simp; omega)]

@[simp] theorem length_padBlock (w : Width) (c : List Byte) (h : c.length ≤ w.bytes) :
    (padBlock w c).length = w.bytes := by simp [padBlock]; omega

theorem length_chunkAt_le (w : Width) (m : List Byte) (n : Nat) : (chunkAt w m n).length ≤ w.bytes := by
  simp [chunkAt]

end Sys2Proof.Machine
end

