-- ==== Sys2Proof/Laws/Commands.lean ====
section
/-! SUPPORT. Everything each command can do, one inversion lemma a command. -/

namespace Sys2Proof.Machine

/-- `SK_INIT` fails, or writes a fresh engine. -/
theorem execSkInit_cases {c : BitVec 2} {f : InitMask} {s t : State} (h : execSkInit c f s = .next t) :
    (c = 3#2 ∧ t = s.fail .illegalCommand) ∨
    (c ≠ 3#2 ∧ s.port.arg0 = 0 ∧ t = s.fail .invalidArgument) ∨
    (∃ w, Width.ofCode c = some w ∧ s.port.arg0 ≠ 0 ∧
      t = (s.setSk (freshEngine w s.port.arg0 (initChain w s.port.arg0 (initInputs f s.port)))).respond []) := by
  unfold execSkInit at h
  cases hw : Width.ofCode c with
  | none => exact .inl ⟨(Width.ofCode_eq_none_iff c).1 hw, by simpa [hw] using h⟩
  | some w =>
    have hc : c ≠ 3#2 := fun hc => by simp [(Width.ofCode_eq_none_iff c).2 hc] at hw
    simp only [hw] at h
    split_ifs at h with ha
    · exact .inr (.inl ⟨hc, ha, by simpa using h⟩)
    · exact .inr (.inr ⟨w, rfl, ha, by simpa using h⟩)

/-- `SK_UPDATE` fails one of its four checks, merges, or absorbs. -/
theorem execSkUpdate_cases {b : Bool} {s t : State} (h : execSkUpdate b s = .next t) :
    (s.sk.ready = false ∧ t = s.fail .notConfigured) ∨
    (s.sk.ready = true ∧ updateBits b s.port > 8 * s.port.d0.length ∧ t = s.fail .invalidArgument) ∨
    (s.sk.ready = true ∧ updateBits b s.port ≤ 8 * s.port.d0.length ∧ s.sk.missing ≠ 0 ∧
      updateBits b s.port > s.sk.missing.val ∧ t = s.fail .invalidArgument) ∨
    (s.sk.ready = true ∧ updateBits b s.port ≤ 8 * s.port.d0.length ∧ s.sk.missing ≠ 0 ∧
      updateBits b s.port ≤ s.sk.missing.val ∧
      t = (s.setSk (mergeUpdate s.port.d0 (updateBits b s.port) s.sk)).respond []) ∨
    (s.sk.ready = true ∧ updateBits b s.port ≤ 8 * s.port.d0.length ∧ s.sk.missing = 0 ∧
      s.sk.bytesHashed.toNat + bytesForBits (updateBits b s.port) ≥ 2 ^ 64 - 1 ∧ t = s.fail .overflow) ∨
    (s.sk.ready = true ∧ updateBits b s.port ≤ 8 * s.port.d0.length ∧ s.sk.missing = 0 ∧
      s.sk.bytesHashed.toNat + bytesForBits (updateBits b s.port) < 2 ^ 64 - 1 ∧
      t = (s.setSk (alignedUpdate s.port.d0 (updateBits b s.port) s.sk)).respond []) := by
  unfold execSkUpdate at h
  simp only at h
  split_ifs at h with h1 h2 h3 h4 h5 <;> simp only [raise_eq_next, complete_eq_next] at h <;>
    simp_all

/-- `SK_DIGEST` fails one of its two checks, or answers a window. -/
theorem execSkDigest_cases {e st : Bool} {s t : State} (h : execSkDigest e st s = .next t) :
    (s.sk.ready = false ∧ t = s.fail .notConfigured) ∨
    (s.sk.ready = true ∧ (windowStart st s.port > windowStop e s.port (digestLength s.sk) ∨
        windowStop e s.port (digestLength s.sk) > digestLength s.sk) ∧ t = s.fail .invalidArgument) ∨
    (s.sk.ready = true ∧ windowStart st s.port ≤ windowStop e s.port (digestLength s.sk) ∧
      windowStop e s.port (digestLength s.sk) ≤ digestLength s.sk ∧
      t = s.respond
        (digestWindow s.sk (windowStart st s.port) (windowStop e s.port (digestLength s.sk)))) := by
  unfold execSkDigest at h
  simp only at h
  split_ifs at h with h1 h2 <;> simp only [raise_eq_next, complete_eq_next] at h <;> simp_all

/-- `TF_SETUP` fails one of its two checks, or writes a fresh Threefish context. -/
theorem execTfSetup_cases {s t : State} (h : execTfSetup s = .next t) :
    ((s.port.d0.length ∉ [32, 64, 128] ∨ s.port.d1.length ≠ 16) ∧ t = s.fail .invalidArgument) ∨
    (∃ w : Width, s.port.d0.length = w.bytes ∧ s.port.d1.length = 16 ∧
      t = (s.setTf (freshCipher w s.port.d0 s.port.d1)).respond []) := by
  unfold execTfSetup at h
  cases hw : Width.ofKeyLength s.port.d0.length with
  | none => exact .inl ⟨.inl ((Width.ofKeyLength_eq_none_iff _).1 hw), by simpa [hw] using h⟩
  | some w =>
    by_cases ht : s.port.d1.length = 16
    · exact .inr ⟨w, (Width.ofKeyLength_eq_some _ _).1 hw, ht, by simpa [hw, ht] using h⟩
    · exact .inl ⟨.inr ht, by simpa [hw, ht] using h⟩

/-- `TF_ENCRYPT` fails one of its two checks, or answers the ciphertext. -/
theorem execTfEncrypt_cases {s t : State} (h : execTfEncrypt s = .next t) :
    (s.tf.ready = false ∧ t = s.fail .notConfigured) ∨
    (s.tf.ready = true ∧ s.port.d0.length ≠ s.tf.nb.bytes ∧ t = s.fail .invalidArgument) ∨
    (s.tf.ready = true ∧ s.port.d0.length = s.tf.nb.bytes ∧ t = s.respond (s.tf.encrypt s.port.d0)) := by
  unfold execTfEncrypt at h
  split_ifs at h with h1 h2 <;> simp only [raise_eq_next, complete_eq_next] at h <;> simp_all

/-- `TF_DECRYPT` fails one of its two checks, or answers the plaintext. -/
theorem execTfDecrypt_cases {s t : State} (h : execTfDecrypt s = .next t) :
    (s.tf.ready = false ∧ t = s.fail .notConfigured) ∨
    (s.tf.ready = true ∧ s.port.d0.length ≠ s.tf.nb.bytes ∧ t = s.fail .invalidArgument) ∨
    (s.tf.ready = true ∧ s.port.d0.length = s.tf.nb.bytes ∧ t = s.respond (s.tf.decrypt s.port.d0)) := by
  unfold execTfDecrypt at h
  split_ifs at h with h1 h2 <;> simp only [raise_eq_next, complete_eq_next] at h <;> simp_all

/-- `TF_GET_TWEAK` fails its check, or answers the tweak. -/
theorem execTfGetTweak_cases {s t : State} (h : execTfGetTweak s = .next t) :
    (s.tf.ready = false ∧ t = s.fail .notConfigured) ∨
    (s.tf.ready = true ∧ t = s.respond s.tf.tweakBytes) := by
  unfold execTfGetTweak at h
  split_ifs at h with h1 <;> simp only [raise_eq_next, complete_eq_next] at h <;> simp_all

/-- `TF_SET_TWEAK` fails one of its two checks, or replaces the tweak. -/
theorem execTfSetTweak_cases {s t : State} (h : execTfSetTweak s = .next t) :
    (s.tf.ready = false ∧ t = s.fail .notConfigured) ∨
    (s.tf.ready = true ∧ s.port.d0.length ≠ 16 ∧ t = s.fail .invalidArgument) ∨
    (s.tf.ready = true ∧ s.port.d0.length = 16 ∧ t = (s.setTf (s.tf.setTweak s.port.d0)).respond []) := by
  unfold execTfSetTweak at h
  split_ifs at h with h1 h2 <;> simp only [raise_eq_next, complete_eq_next] at h <;> simp_all

end Sys2Proof.Machine
end

