-- ==== Sys2Proof/Laws/PerInstr.lean ====
section
/-! SUPPORT. Statements about every command as syntax, one lemma a constructor. -/

/-! ## The family EncodedWord: the encoding has its row's opcode, and its reserved bits are 0 -/

namespace Sys2Proof.Laws.EncodedWord

/-- The opcode of a command (R55). -/
def opcodeOf : Instr → BitVec 8
  | .skInit _ _ => 0x01#8
  | .skUpdate _ => 0x02#8
  | .skDigest _ _ => 0x03#8
  | .tfSetup => 0x10#8
  | .tfEncrypt => 0x11#8
  | .tfDecrypt => 0x12#8
  | .tfGetTweak => 0x13#8
  | .tfSetTweak => 0x14#8

/-- The fields of the encoded word: its opcode is the command's and its reserved bits are 0 (R54, R55). -/
def Statement (i : Instr) : Prop :=
  opcodeField (encode i) = opcodeOf i ∧ reservedLow (encode i) = 0#6 ∧ reservedHigh (encode i) = 0#11

theorem skInit (w : BitVec 2) (f : InitMask) : Statement (.skInit w f) := by
  obtain ⟨a, b, c, d, e⟩ := f
  unfold Statement
  revert w a b c d e
  decide

theorem skUpdate (b : Bool) : Statement (.skUpdate b) := by unfold Statement; revert b; decide

theorem skDigest (e st : Bool) : Statement (.skDigest e st) := by unfold Statement; revert e st; decide

theorem tfSetup : Statement .tfSetup := by unfold Statement; decide

theorem tfEncrypt : Statement .tfEncrypt := by unfold Statement; decide

theorem tfDecrypt : Statement .tfDecrypt := by unfold Statement; decide

theorem tfGetTweak : Statement .tfGetTweak := by unfold Statement; decide

theorem tfSetTweak : Statement .tfSetTweak := by unfold Statement; decide

end Sys2Proof.Laws.EncodedWord
end

