-- ==== Sys2Proof/Laws/Step.lean ====
section
/-! SUPPORT. Everything a step can do. -/

namespace Sys2Proof.Machine

/-- A step waits, resets, drops a transaction the interface cannot carry, refuses an illegal word, or runs a
command. -/
theorem step_cases {s t : State} (h : step s = .next t) :
    (s.inputs = [] ∧ t = s) ∨
    (∃ rest, s.inputs = .reset :: rest ∧ t = afterReset rest) ∨
    (∃ tr rest, s.inputs = .command tr :: rest ∧ tr.operands.fit = false ∧ t = s.dropInput rest) ∨
    (∃ tr rest e, s.inputs = .command tr :: rest ∧ tr.operands.fit = true ∧ decode tr.cmd = .illegal e ∧
      t = (s.accept tr rest).fail .illegalCommand) ∨
    (∃ tr rest i, s.inputs = .command tr :: rest ∧ tr.operands.fit = true ∧ decode tr.cmd = .command i ∧
      exec i (s.accept tr rest) = .next t) := by
  unfold step at h
  split at h
  case h_1 hi => exact .inl ⟨hi, by simpa [eq_comm] using h⟩
  case h_2 rest hi => exact .inr (.inl ⟨rest, hi, by simpa [eq_comm] using h⟩)
  case h_3 tr rest hi =>
    split_ifs at h with hf
    · unfold runCommand at h
      split at h
      case h_1 i hd => exact .inr (.inr (.inr (.inr ⟨tr, rest, i, hi, hf, hd, h⟩)))
      case h_2 e hd => exact .inr (.inr (.inr (.inl ⟨tr, rest, e, hi, hf, hd, by simpa using h⟩)))
    · exact .inr (.inr (.inl ⟨tr, rest, hi, by simpa using hf, by simpa [eq_comm] using h⟩))

/-- A word placed as the host's next event is the next one the block takes. -/
theorem step_withFetchWord (s : State) (nbits w : Nat) (h : s.port.fit = true) :
    step (s.withFetchWord nbits w) =
      runCommand (BitVec.ofNat 32 (w % 2 ^ nbits)) s := by
  simp only [step, State.withFetchWord, h, if_true]
  rfl

end Sys2Proof.Machine
end

