-- ==== Sys2Proof/Machine/Assembler.lean ====
section
/-! DEFINITION. The host's notation for command sequences: the assembler's command lines and the pseudo-commands, as
abstract syntax (R66, R67). The block never sees them; a program of the host is the list of events they stand for. -/

namespace Sys2Proof.Machine

/-- A byte-string expression of the assembler (R66). -/
inductive ByteString where
  /-- `x"hex digits"` or `"ascii text"`: the bytes themselves. -/
  | bytes (s : List Byte)
  /-- `S*N`: `S` repeated `N` times. -/
  | rep (s : ByteString) (n : Nat)
  /-- `S || T`. -/
  | cat (s t : ByteString)
  deriving DecidableEq, Repr

/-- The bytes of a byte-string expression. -/
def ByteString.eval : ByteString → List Byte
  | .bytes s => s
  | .rep s n => (List.replicate n s.eval).flatten
  | .cat s t => s.eval ++ t.eval

/-- A command line of the assembler (R66). -/
inductive AsmLine where
  /-- `sk.init W, digest_bits [, key=S] [, prs=S] [, pk=S] [, kid=S] [, nonce=S]`. -/
  | skInit (w : Width) (digestBits : Word) (key prs pk kid non : Option ByteString)
  /-- `sk.update S [, bits=N]`. -/
  | skUpdate (s : ByteString) (bits : Option Word)
  /-- `sk.digest [start=N] [, stop=N]`. -/
  | skDigest (start stop : Option Word)
  /-- `tf.setup KEY, TWEAK`. -/
  | tfSetup (key tweak : ByteString)
  /-- `tf.enc BLOCK`. -/
  | tfEnc (block : ByteString)
  /-- `tf.dec BLOCK`. -/
  | tfDec (block : ByteString)
  /-- `tf.gettweak`. -/
  | tfGetTweak
  /-- `tf.settweak TWEAK`. -/
  | tfSetTweak (tweak : ByteString)
  deriving DecidableEq, Repr

/-- The width code of an assembler width: 256, 512, 1024 give 0, 1, 2 (R66). -/
def Width.code : Width → BitVec 2
  | .w256 => 0#2
  | .w512 => 1#2
  | .w1024 => 2#2

/-- The bytes of an optional operand; an operand not given is empty. -/
def optionalBytes (s : Option ByteString) : List Byte :=
  match s with
  | some e => e.eval
  | none => []

/-- The transaction of a command line: each named input sets its field bit (R66), and an operand not given is empty
or 0. -/
def AsmLine.assemble : AsmLine → Transaction
  | .skInit w bits key prs pk kid non =>
    { cmd := encode (.skInit (Width.code w)
        { key := key.isSome, prs := prs.isSome, pk := pk.isSome, kid := kid.isSome, non := non.isSome })
      operands := { Operands.none with
        arg0 := bits, d0 := optionalBytes key, d1 := optionalBytes prs, d2 := optionalBytes pk,
        d3 := optionalBytes kid, d4 := optionalBytes non } }
  | .skUpdate s bits =>
    { cmd := encode (.skUpdate bits.isSome), operands := { Operands.none with arg0 := bits.getD 0, d0 := s.eval } }
  | .skDigest start stop =>
    { cmd := encode (.skDigest stop.isSome start.isSome)
      operands := { Operands.none with arg0 := start.getD 0, arg1 := stop.getD 0 } }
  | .tfSetup key tweak =>
    { cmd := encode .tfSetup, operands := { Operands.none with d0 := key.eval, d1 := tweak.eval } }
  | .tfEnc block => { cmd := encode .tfEncrypt, operands := { Operands.none with d0 := block.eval } }
  | .tfDec block => { cmd := encode .tfDecrypt, operands := { Operands.none with d0 := block.eval } }
  | .tfGetTweak => { cmd := encode .tfGetTweak, operands := Operands.none }
  | .tfSetTweak tweak => { cmd := encode .tfSetTweak, operands := { Operands.none with d0 := tweak.eval } }

/-- The pseudo-command `sk.hash W, N, S` (R67). -/
def skHash (w : Width) (n : Word) (s : ByteString) : List AsmLine :=
  [.skInit w n none none none none none, .skUpdate s none, .skDigest none none]

/-- The pseudo-command `sk.mac W, N, K, S` (R67). -/
def skMac (w : Width) (n : Word) (k s : ByteString) : List AsmLine :=
  [.skInit w n (some k) none none none none, .skUpdate s none, .skDigest none none]

/-- The pseudo-command `sk.hexdigest` (R67): `sk.digest`, rendered by the host. -/
def skHexdigest : List AsmLine := [.skDigest none none]

/-- The host events a program stands for. -/
def program (lines : List AsmLine) : List HostEvent := lines.map (fun l => .command l.assemble)

end Sys2Proof.Machine
end

