-- ==== Sys2Proof/Tests/Slice0.lean ====
section
/-! SUPPORT. Tests: the well-formedness smoke test, words decoded by hand, single commands against the vectors of
spec/95_test_vectors.md, and a witness for every statement that has hypotheses. -/

namespace Sys2Proof.Tests

open Sys2Proof Sys2Proof.Machine

/-! ## Helpers -/

/-- The `len` bytes of a hexadecimal literal, first byte first. -/
def hexBytes (len n : Nat) : List Byte :=
  (List.range len).map fun i => BitVec.ofNat 8 (n / 2 ^ (8 * (len - 1 - i)))

/-- The `len` bytes `first, first + 1, …`. -/
def bytesFrom (first len : Nat) : List Byte := (List.range len).map fun i => BitVec.ofNat 8 (first + i)

/-- The `len` bytes `0xff, 0xfe, …`. -/
def bytesDown (len : Nat) : List Byte := (List.range len).map fun i => BitVec.ofNat 8 (255 - i)

/-- The presence mask with no input. -/
def noInputs : InitMask := { key := false, prs := false, pk := false, kid := false, non := false }

/-- The operands with `D0` only. -/
def d0Only (d : List Byte) : Operands := { Operands.none with d0 := d }

/-- The state with the given operands on the port. -/
def withPort (o : Operands) (s : State) : State := { s with port := o }

/-- The state with one command pending, and nothing else. -/
def withCommand (cmd : CmdWord) (o : Operands) (s : State) : State :=
  { s with inputs := [.command { cmd := cmd, operands := o }] }

/-- The next state of an outcome. -/
def nextOf : Host.Outcome State Fault Refusal → Option State
  | .next s => some s
  | .fault _ => none
  | .refused _ => none

/-- A check of the next state of an outcome. -/
def answers (o : Host.Outcome State Fault Refusal) (p : State → Bool) : Bool := (nextOf o).any p

/-- A checked outcome is a next state that meets the check. -/
theorem exists_next {o : Host.Outcome State Fault Refusal} {p : State → Bool} (h : answers o p = true) :
    ∃ t, o = .next t ∧ p t = true := by
  cases o with
  | next t => exact ⟨t, rfl, h⟩
  | fault f => cases f
  | refused r => exact absurd h (by simp [answers, nextOf])

/-- The chaining value of Skein-256-256 (V6). -/
def chain256 : List Word :=
  [0xFC9DA860D048B449#64, 0x2FCA66479FA7D833#64, 0xB33BC3896656840F#64, 0x6A54E920FDE8DA69#64]

/-- The chaining value of Skein-512-512 (V5). -/
def chain512 : List Word :=
  [0x4903ADFF749C51CE#64, 0x0D95DE399746DF03#64, 0x8FD1934127C79BCE#64, 0x9A255629FF352CB1#64,
   0x5DB62599DF6CA7B0#64, 0xEABE394CA9D5C3F4#64, 0x991112C71A75B523#64, 0xAE18A40B660FCC33#64]

/-- A Skein-256-256 engine right after `SK_INIT`. -/
def engine256 : State := { State.reset with sk := freshEngine .w256 256 chain256 }

/-- The engine of V17: four bits of one byte pending. -/
def partialEngine : State :=
  { State.reset with
    sk := { freshEngine .w256 256 chain256 with buf := [0xA8#8], missing := 4, bytesHashed := 1 } }

/-- The engine of V14: one full block of zeros buffered. -/
def fullEngine : State :=
  { State.reset with sk := { freshEngine .w512 512 chain512 with buf := zeros 64, bytesHashed := 64 } }

/-- The engine of V16: a counter two below its limit (not reachable by commands). -/
def nearlyFullCounter : State :=
  { State.reset with sk := { freshEngine .w256 256 chain256 with bytesHashed := BitVec.ofNat 64 (2 ^ 64 - 3) } }

/-- A Threefish context with the key bytes `0x10, 0x11, …` and the tweak bytes `0, 1, …, 15`. -/
def cipher (w : Width) : State := { State.reset with tf := freshCipher w (bytesFrom 16 w.bytes) (bytesFrom 0 16) }

/-! ## Well-formedness -/

theorem test_wellFormed_refuses_reserved_width : (Instr.skInit 3#2 noInputs).wellFormed = false := by decide

theorem test_wellFormed_widths : ∀ w : BitVec 2, (Instr.skInit w noInputs).wellFormed = decide (w ≠ 3#2) := by decide

/-! ## Decoding: words written out from R54 to R59 and R68, high bit first:
`[31:21] = 0`, `F`, `[15:10] = 0`, `W`, `OPC`. -/

theorem test_decode_skInit :
    decode 0b00000000000_01101_000000_10_00000001#32 =
      .command (.skInit 2#2 { key := true, prs := false, pk := true, kid := true, non := false }) := by decide

theorem test_decode_skUpdate :
    decode 0b00000000000_00001_000000_00_00000010#32 = .command (.skUpdate true) := by decide

theorem test_decode_skDigest_start :
    decode 0b00000000000_00001_000000_00_00000011#32 = .command (.skDigest false true) := by decide

theorem test_decode_skDigest_stop :
    decode 0b00000000000_00010_000000_00_00000011#32 = .command (.skDigest true false) := by decide

theorem test_decode_tfSetup : decode 0b00000000000_00000_000000_00_00010000#32 = .command .tfSetup := by decide

theorem test_decode_tfEncrypt : decode 0b00000000000_00000_000000_00_00010001#32 = .command .tfEncrypt := by decide

theorem test_decode_tfDecrypt : decode 0b00000000000_00000_000000_00_00010010#32 = .command .tfDecrypt := by decide

theorem test_decode_tfGetTweak : decode 0b00000000000_00000_000000_00_00010011#32 = .command .tfGetTweak := by decide

theorem test_decode_tfSetTweak : decode 0b00000000000_00000_000000_00_00010100#32 = .command .tfSetTweak := by decide

theorem test_decode_reserved_opcode :
    decode 0b00000000000_00000_000000_00_00000100#32 = .illegal .reservedOpcode := by decide

theorem test_decode_reserved_bits :
    decode 0b00000000001_00000_000000_00_00000001#32 = .illegal .reservedBits ∧
    decode 0b00000000000_00000_000001_00_00000001#32 = .illegal .reservedBits := by decide

theorem test_decode_width_not_allowed :
    decode 0b00000000000_00000_000000_01_00010000#32 = .illegal .widthNotAllowed := by decide

theorem test_decode_reserved_width :
    decode 0b00000000000_00000_000000_11_00000001#32 = .illegal .reservedWidth := by decide

theorem test_decode_undefined_flag :
    decode 0b00000000000_00010_000000_00_00000010#32 = .illegal .undefinedFlag ∧
    decode 0b00000000000_00100_000000_00_00000011#32 = .illegal .undefinedFlag ∧
    decode 0b00000000000_00001_000000_00_00010100#32 = .illegal .undefinedFlag := by decide

theorem test_decodeTableWord :
    decodeTableWord 32 0x10011 = none ∧ decodeTableWord 32 0x11 = some .tfEncrypt ∧
    decodeTableWord 32 0x110001 =
      some (.skInit 0#2 { key := true, prs := false, pk := false, kid := false, non := true }) := by decide

/-- Every constructor's word, placed where the step takes its next command after reset, is run. -/
theorem test_withFetchWord_runs :
    ∀ p ∈ [(0x00000201, Status.invalidArgument), (0x00010002, .notConfigured), (0x00020003, .notConfigured),
        (0x00000010, .invalidArgument), (0x00000011, .notConfigured), (0x00000012, .notConfigured),
        (0x00000013, .notConfigured), (0x00000014, .notConfigured), (0x00000301, .illegalCommand)],
      answers (step (State.reset.withFetchWord 32 p.1)) (fun t => t == State.reset.fail p.2) = true := by decide

/-! ## The commands against the vectors of spec/95_test_vectors.md -/

/-- V6 (a recalled published value). -/
theorem test_skInit_256_256 :
    answers (exec (.skInit 0#2 noInputs) (withPort { Operands.none with arg0 := 256#64 } State.reset))
      (fun t => t.status == 0x00#8 && t.sk ==
        { ready := true, nb := .w256, digestBits := 256#64, x := chain256, t0 := 0#64, t1 := 0x7000000000000000#64,
          buf := [], missing := 0, bytesHashed := 0#64 }) = true := by
  decide +kernel

/-- Program 4, step 1: a key of 32 bytes. -/
theorem test_skInit_keyed :
    answers
      (exec (.skInit 0#2 { noInputs with key := true })
        (withPort { Operands.none with arg0 := 256#64, d0 := List.replicate 32 0x01#8 } State.reset))
      (fun t => t.sk.x ==
        [0x423C5B4D0D4E5056#64, 0x525679FACAF7A300#64, 0xB540A9B20346829F#64, 0x62AC42B8F956B298#64]) = true := by
  decide +kernel

/-- V14: the byte after a full buffer sends the block. -/
theorem test_skUpdate_lazy_flush :
    answers (exec (.skUpdate false) (withPort (d0Only [0x00#8]) fullEngine)) (fun t => t.sk ==
      { freshEngine .w512 512
          [0xD55FA18047E994AB#64, 0x73EE2E48DF3E522B#64, 0xB990D1FFF14078B8#64, 0x1478D1C6F534B1FC#64,
           0xAD86EB0442FC0CE9#64, 0xA54AD74F43C552E8#64, 0x3E0DE3A12D3EFACB#64, 0xE619708E94E72E0D#64] with
        t0 := 64#64, t1 := 0x3000000000000000#64, buf := [0x00#8], bytesHashed := 65#64 }) = true := by
  decide +kernel

/-- V20: one more bit of a pending byte. -/
theorem test_skUpdate_merge :
    answers (exec (.skUpdate true) (withPort { Operands.none with arg0 := 1#64, d0 := [0x80#8] } partialEngine))
      (fun t => t.sk == { partialEngine.sk with buf := [0xAC#8], missing := 3 }) = true := by
  decide

/-- V17: the digest of the 4-bit message `1010`. -/
theorem test_skDigest_partial_byte :
    answers (exec (.skDigest false false) partialEngine) (fun t => t.rdata ==
      hexBytes 32 0xe34c95b54c35f7dd609bf9580a0c50b0cf018b89051d14d881296438ea5c85f4) = true := by
  decide +kernel

/-- V24: the last byte of a 12-bit digest is masked. -/
theorem test_skDigest_masked :
    answers
      (exec (.skDigest true true)
        { withPort { Operands.none with arg0 := 1#64, arg1 := 2#64 } State.reset with
          sk := freshEngine .w256 12 (initChain .w256 12 (initInputs noInputs Operands.none)) })
      (fun t => t.rdata == [0x30#8]) = true := by
  decide +kernel

/-- The key of V2, the parity of V1c and the tweak of Program 1. -/
theorem test_tfSetup_key_and_tweak :
    answers
      (exec .tfSetup (withPort { Operands.none with d0 := bytesFrom 16 32, d1 := bytesFrom 0 16 } State.reset))
      (fun t => t.tf ==
        { ready := true, nb := .w256
          k := [0x1716151413121110#64, 0x1F1E1D1C1B1A1918#64, 0x2726252423222120#64, 0x2F2E2D2C2B2A2928#64,
                0x1BD11BDAA9FC1A22#64]
          t := #v[0x0706050403020100#64, 0x0F0E0D0C0B0A0908#64, 0x0808080808080808#64] }) = true := by
  decide

/-- V1h: a key of 31 bytes. -/
theorem test_tfSetup_key_length :
    answers (exec .tfSetup (withPort { Operands.none with d0 := zeros 31, d1 := zeros 16 } State.reset))
      (fun t => t.status == 0x01#8 && !t.tf.ready) = true := by
  decide

/-- V2 (a recalled published value). -/
theorem test_tfEncrypt_256 :
    answers (exec .tfEncrypt (withPort (d0Only (bytesDown 32)) (cipher .w256))) (fun t => t.rdata ==
      hexBytes 32 0xe0d091ff0eea8fdfc98192e62ed80ad59d865d08588df476657056b5955e97df) = true := by
  decide +kernel

/-- V1b. -/
theorem test_tfEncrypt_1024 :
    answers (exec .tfEncrypt (withPort (d0Only (bytesDown 128)) (cipher .w1024))) (fun t => t.rdata ==
      hexBytes 64 0xa6654ddbd73cc3b05dd777105aa849bce49372eaaffc5568d254771bab85531c94f780e7ffaae430d5d8af8c70eebbe1760f3b42b737a89cb363490d670314bd ++
      hexBytes 64 0x8aa41ee63c2e1f45fbd477922f8360b388d6125ea6c7af0ad7056d01796e90c83313f4150a5716b30ed5f569288ae974ce2b4347926fce57de44512177dd7cde) =
      true := by
  decide +kernel

/-- V1e. -/
theorem test_tfDecrypt_256 :
    answers (exec .tfDecrypt { withPort (d0Only (zeros 32)) State.reset with tf := freshCipher .w256 (zeros 32) (zeros 16) })
      (fun t => t.rdata == hexBytes 32 0x190d851fad62aaad6b4b74f62082d7f59ff5292cda944dfcdad4f43c1cc046fb) = true := by
  decide +kernel

/-- V4 (a recalled published value), decrypted. -/
theorem test_tfDecrypt_512 :
    answers
      (exec .tfDecrypt (withPort (d0Only (hexBytes 64 0xe304439626d45a2cb401cad8d636249a6338330eb06d45dd8b36b90e97254779272a0a8d99463504784420ea18c9a725af11dffea10162348927673d5c1caf3d)) (cipher .w512)))
      (fun t => t.rdata == bytesDown 64) = true := by
  decide +kernel

/-- Program 1, step 6. -/
theorem test_tfGetTweak :
    answers (exec .tfGetTweak (cipher .w256)) (fun t => t.rdata == bytesFrom 0 16 && t.status == 0x00#8) = true := by
  decide

/-- Program 1, step 5 and its end state. -/
theorem test_tfSetTweak :
    answers (exec .tfSetTweak (withPort (d0Only (bytesFrom 0 16)) { State.reset with tf := freshCipher .w256 (zeros 32) (zeros 16) }))
      (fun t => t.tf.t == #v[0x0706050403020100#64, 0x0F0E0D0C0B0A0908#64, 0x0808080808080808#64] &&
        t.tf.k == [0, 0, 0, 0, 0x1BD11BDAA9FC1A22#64]) = true := by
  decide

/-! ## Witnesses: for each statement with hypotheses, an input that meets them, one for each clause. -/

/-- The wrong word of R69. -/
theorem not_a_command : ¬ ∃ i, decode 0x00000301#32 = .command i := by
  rw [show decode 0x00000301#32 = .illegal .reservedWidth by decide]
  rintro ⟨i, h⟩
  cases h

/-- The invariant of the engine, at an engine with a partial byte. -/
theorem partialEngine_wf : EngineWf partialEngine.sk := by constructor <;> decide

theorem witness_DecodeEncodeRoundTrip :
    (Instr.skInit 2#2 { key := true, prs := true, pk := true, kid := true, non := true }).wellFormed = true := by decide

theorem witness_EncodeOfDecodedWord : ∃ i, decode 0x00130001#32 = .command i := ⟨_, rfl⟩

theorem witness_LegalWordsAndIllegalCommand : ∃ cmd, ¬ ∃ i, decode cmd = .command i := ⟨_, not_a_command⟩

theorem witness_StepRunsDecodedCommand :
    ∃ (s : State) (t : Transaction) (rest : List HostEvent),
      s.inputs = .command t :: rest ∧ t.operands.fit = true ∧ decode t.cmd = .command (.skUpdate false) ∧
        t.operands.d0.length = 128 :=
  ⟨withCommand 0x00000002#32 (d0Only (zeros 128)) engine256, _, _, rfl, by decide +kernel, by decide, by decide +kernel⟩

theorem witness_StepWithoutACommand :
    State.reset.inputs = [] ∧
    ∃ (s : State) (t : Transaction) (rest : List HostEvent), s.inputs = .command t :: rest ∧
      ∃ d ∈ [t.operands.d0, t.operands.d1, t.operands.d2, t.operands.d3, t.operands.d4],
        d.length > Config.maxPayloadBytes :=
  ⟨rfl, withCommand 0x00000002#32 (d0Only (zeros (Config.maxPayloadBytes + 1))) State.reset, _, _, rfl,
    zeros (Config.maxPayloadBytes + 1), List.mem_cons_self, by simp [zeros]⟩

theorem witness_CommandsLeaveTheHostsStream : ∃ t, exec (.skUpdate true) partialEngine = .next t := ⟨_, rfl⟩

theorem witness_ResetWritesAndUnspecifiedRegisters :
    (∃ (s : State) (rest : List HostEvent), s.inputs = .reset :: rest ∧ s.sk.ready = true) ∧
    ∃ s s' : State, AgreeWhereConfigured s s' ∧ s ≠ s' :=
  ⟨⟨{ engine256 with inputs := [.reset] }, _, rfl, rfl⟩,
    State.reset, { State.reset with sk := { State.reset.sk with buf := [1#8] } },
    ⟨rfl, by decide, rfl, by decide, rfl, rfl, rfl, rfl⟩, by decide⟩

theorem witness_OnlySetupCommandsCompleteAfterReset :
    (∃ s t : State, s.sk.ready = false ∧ s.tf.ready = false ∧ exec .tfSetup s = .next t ∧ t.status = 0x00#8 ∧
      t.tf.ready = true) ∧
    (∃ s t : State, s.sk.ready = false ∧ exec (.skInit 0#2 noInputs) s = .next t ∧ t.sk.ready = true) ∧
    ∃ cmd, ¬ ∃ i, decode cmd = .command i := by
  refine ⟨?_, ?_, _, not_a_command⟩
  · obtain ⟨t, h, ht⟩ := exists_next (o := exec .tfSetup
      (withPort { Operands.none with d0 := zeros 32, d1 := zeros 16 } State.reset))
      (p := fun t => t.status == 0x00#8 && t.tf.ready) (by decide)
    exact ⟨_, t, rfl, rfl, h, by simp_all⟩
  · exact ⟨withPort { Operands.none with arg0 := 256#64 } State.reset, _, rfl, rfl, rfl⟩

theorem witness_ErrorsWriteNoOtherRegister :
    (∃ t, runCommand 0x00000301#32 engine256 = .next t ∧ t.status ≠ 0x00#8) ∧
    ∃ t, runCommand 0x00000011#32 engine256 = .next t ∧ t.status ≠ 0x00#8 := by
  obtain ⟨t, h, ht⟩ := exists_next (o := runCommand 0x00000301#32 engine256)
    (p := fun t => t.status != 0x00#8) (by decide)
  obtain ⟨u, h', hu⟩ := exists_next (o := runCommand 0x00000011#32 engine256)
    (p := fun t => t.status != 0x00#8) (by decide)
  exact ⟨⟨t, h, by simpa using ht⟩, u, h', by simpa using hu⟩

theorem witness_StatusesOfEachCommand :
    (∃ t, exec (.skInit 3#2 noInputs) State.reset = .next t) ∧ ∃ t, exec (.skInit 2#2 noInputs) State.reset = .next t :=
  ⟨⟨_, rfl⟩, _, rfl⟩

/-- One bit more than the operand holds. -/
theorem witness_InvalidArgumentExactly :
    ∃ s t : State, (Instr.skUpdate true).wellFormed = true ∧ exec (.skUpdate true) s = .next t ∧
      ¬ unconfigured (.skUpdate true) s ∧ invalidArgumentCause (.skUpdate true) s :=
  ⟨withPort { Operands.none with arg0 := 9#64, d0 := [0x61#8] } engine256, _, rfl, rfl, fun h => Bool.noConfusion h,
    .inl (by decide)⟩

theorem witness_NotConfiguredExactly :
    ∃ t, exec .tfGetTweak State.reset = .next t ∧ unconfigured .tfGetTweak State.reset := ⟨_, rfl, rfl⟩

/-- V16: two bytes at 2^64 - 3 reach the limit. -/
theorem witness_OverflowExactly :
    ∃ s t : State, exec (.skUpdate false) s = .next t ∧ t.status = 0x02#8 := by
  obtain ⟨t, h, ht⟩ := exists_next
    (o := exec (.skUpdate false) (withPort (d0Only [0x61#8, 0x62#8]) nearlyFullCounter))
    (p := fun t => t.status == 0x02#8) (by decide)
  exact ⟨_, t, h, by simpa using ht⟩

theorem witness_ContextsAreIndependent :
    (∃ t, isThreefish .tfGetTweak = true ∧ exec .tfGetTweak (cipher .w512) = .next t) ∧
    ∃ t, isThreefish (.skUpdate true) = false ∧ exec (.skUpdate true) partialEngine = .next t :=
  ⟨⟨_, rfl, rfl⟩, _, rfl, rfl⟩

theorem witness_UnusedOperandsHaveNoEffect :
    ∃ t, exec (.skUpdate false) (withPort { d0Only [] with arg0 := 7#64, d1 := [1#8] } partialEngine) = .next t :=
  ⟨_, rfl⟩

theorem witness_SkInitConfiguresTheEngine :
    (∀ p ∈ [(0#2, Width.w256), (1#2, .w512), (2#2, .w1024)],
      p ∈ [(0#2, Width.w256), (1#2, .w512), (2#2, .w1024)] ∧
        (withPort { Operands.none with arg0 := 1#64 } State.reset).port.arg0 ≠ 0) ∧
    ((2#2 : BitVec 2) ≠ 3#2 ∧ State.reset.port.arg0 = 0) := by decide

theorem witness_EmptyOptionalInputIsAbsent :
    State.reset.port.d0 = [] ∧ State.reset.port.d1 = [] ∧ State.reset.port.d2 = [] ∧ State.reset.port.d3 = [] ∧
      State.reset.port.d4 = [] := by decide

theorem witness_BatchedBlocksEqualSuccessiveCalls :
    (zeros 64).length = 2 * Width.w256.bytes ∧ (zeros 32).length = 1 * Width.w256.bytes := by decide

theorem witness_StandaloneCipherIsTheEngines :
    ∃ u t : State, chain512.length = Width.w512.words ∧ (zeros 64).length = Width.w512.bytes ∧
      exec .tfSetup
        { State.reset with
          port := { State.reset.port with d0 := bytesOf chain512, d1 := bytesOf [64, 0x7000000000000000#64] } } =
        .next u ∧
      exec .tfEncrypt { u with port := { u.port with d0 := zeros 64 } } = .next t :=
  ⟨_, _, rfl, rfl, rfl, rfl⟩

theorem witness_AlignedUpdateWrites :
    ∃ s : State, s.sk.ready = true ∧ s.sk.missing = 0 ∧ updateBits true s.port ≤ 8 * s.port.d0.length ∧
      updateBits true s.port % 8 ≠ 0 ∧
      s.sk.bytesHashed.toNat + (updateBits true s.port + 7) / 8 = 2 ^ 64 - 2 :=
  ⟨withPort { Operands.none with arg0 := 1#64, d0 := [0x80#8] } nearlyFullCounter, by decide⟩

theorem witness_AbsorbKeepsTheLastBlock :
    fullEngine.sk.buf.length ≤ fullEngine.sk.nb.bytes ∧ fullEngine.sk.buf.length = 64 ∧ zeros 1 ≠ [] := by decide

theorem witness_MergeUpdateWrites :
    ∃ s : State, s.sk.ready = true ∧ s.sk.missing ≠ 0 ∧ 1 ≤ s.sk.bcnt ∧
      updateBits true s.port ≤ 8 * s.port.d0.length ∧ updateBits true s.port = s.sk.missing.val :=
  ⟨withPort { Operands.none with arg0 := 4#64, d0 := [0xB0#8] } partialEngine, by decide⟩

theorem witness_PartialByteShape : 1 ≤ 7 ∧ 7 ≤ 7 ∧ 1 ≤ 1 ∧ 1 ≤ 7 := by decide

theorem witness_MergeByteShape : 1 ≤ 7 ∧ 7 ≤ 7 ∧ 0 ≤ 7 ∧ 1 ≤ 1 ∧ 1 ≤ 7 := by decide

theorem witness_UnalignedContinuationIsRefused :
    (∃ s : State, s.sk.ready = true ∧ s.sk.missing ≠ 0 ∧ updateBits true s.port = s.sk.missing.val + 1) ∧
    (∃ s : State, s.sk.ready = true ∧ s.sk.missing ≠ 0 ∧ s.port.d0 ≠ []) ∧
    ∃ s : State, s.sk.ready = true ∧ s.sk.missing ≠ 0 ∧ updateBits true s.port = s.sk.missing.val ∧
      updateBits true s.port ≤ 8 * s.port.d0.length :=
  ⟨⟨withPort { Operands.none with arg0 := 5#64, d0 := [0xB0#8] } partialEngine, by decide⟩,
    ⟨withPort (d0Only [0xCD#8]) partialEngine, by decide⟩,
    withPort { Operands.none with arg0 := 4#64, d0 := [0xB0#8] } partialEngine, by decide⟩

theorem witness_OverflowChangesNothing :
    (∃ s : State, s.sk.ready = true ∧ s.sk.missing = 0 ∧ updateBits true s.port ≤ 8 * s.port.d0.length ∧
      s.sk.bytesHashed.toNat +
        (updateBits true s.port / 8 + (if updateBits true s.port % 8 ≠ 0 then 1 else 0)) = 2 ^ 64 - 1) ∧
    (∃ s : State, s.sk.ready = true ∧ updateBits true s.port = 8 * s.port.d0.length + 1) ∧
    ∃ t, partialEngine.sk.missing ≠ 0 ∧ exec (.skUpdate true) partialEngine = .next t :=
  ⟨⟨withPort { Operands.none with arg0 := 9#64, d0 := [0x61#8, 0x62#8] } nearlyFullCounter, by decide⟩,
    ⟨withPort { Operands.none with arg0 := 9#64, d0 := [0x61#8] } engine256, by decide⟩, _, by decide, rfl⟩

theorem witness_EmptyUpdateChangesNothing :
    ∃ s : State, s.sk.ready = true ∧ EngineWf s.sk ∧ updateBits true s.port = 0 ∧ s.sk.missing ≠ 0 :=
  ⟨partialEngine, rfl, partialEngine_wf, rfl, by decide⟩

theorem witness_SplitUpdatesEqualOneUpdate :
    fullEngine.sk.ready = true ∧ fullEngine.sk.missing = 0 ∧ fullEngine.sk.bcnt ≤ fullEngine.sk.nb.bytes ∧
      fullEngine.sk.bytesHashed.toNat + (zeros 64 ++ zeros 1).length < 2 ^ 64 - 1 := by decide

theorem witness_MessagePathComputesUbi :
    engine256.sk = { ready := true, nb := .w256, digestBits := 256, x := chain256, t0 := 0,
                     t1 := 0x7000000000000000#64, buf := [], missing := 0, bytesHashed := 0 } ∧
    (zeros 33).length < 2 ^ 64 - 1 ∧ ∃ t, exec (.skUpdate false) (engine256.withBytes (zeros 33)) = .next t :=
  ⟨by decide, by decide, _, rfl⟩

theorem witness_PartialThenCompletionEqualsWhole :
    1 ≤ 7 ∧ 7 ≤ 7 ∧ fullEngine.sk.ready = true ∧ fullEngine.sk.missing = 0 ∧
      fullEngine.sk.bcnt ≤ fullEngine.sk.nb.bytes ∧ 8 * (zeros 63).length + 7 < 2 ^ 64 ∧
      fullEngine.sk.bytesHashed.toNat + ((zeros 63).length + 1) < 2 ^ 64 - 1 := by decide

theorem witness_BytesHashedIsMonotone :
    ∃ s t : State, exec (.skUpdate false) s = .next t ∧ (∀ w f, Instr.skUpdate false ≠ .skInit w f) ∧
      s.sk.bytesHashed.toNat = 2 ^ 64 - 3 ∧ s.sk.bytesHashed.toNat ≤ 2 ^ 64 - 2 :=
  ⟨withPort (d0Only [0x78#8]) nearlyFullCounter, _, rfl, (fun _ _ h => by cases h), by decide⟩

theorem witness_DigestAnswersEveryWindow :
    (∃ s : State, s.sk.ready = true ∧ s.port.arg0.toNat = s.port.arg1.toNat ∧
      s.port.arg1.toNat = (s.sk.digestBits.toNat + 7) / 8) ∧
    (∃ s : State, s.sk.ready = false) ∧
    (∃ s : State, s.sk.ready = true ∧ s.port.arg0.toNat = s.port.arg1.toNat + 1) ∧
    ∃ s : State, s.sk.ready = true ∧ s.port.arg1.toNat = (s.sk.digestBits.toNat + 7) / 8 + 1 :=
  ⟨⟨withPort { Operands.none with arg0 := 32#64, arg1 := 32#64 } engine256, by decide⟩, ⟨State.reset, rfl⟩,
    ⟨withPort { Operands.none with arg0 := 5#64, arg1 := 4#64 } engine256, by decide⟩,
    withPort { Operands.none with arg1 := 33#64 } engine256, by decide⟩

theorem witness_DigestBytesComeFromTheOutputStream :
    ∃ e : EngineCtx, 1 ≤ 2 ∧ 2 ≤ (e.digestBits.toNat + 7) / 8 ∧ e.digestBits.toNat % 8 ≠ 0 ∧
      1 = (e.digestBits.toNat + 7) / 8 - 1 :=
  ⟨freshEngine .w256 12 chain256, by decide⟩

theorem witness_DigestWindowingLaws :
    engine256.sk.ready = true ∧ 3 ≤ 32 ∧ 32 = (engine256.sk.digestBits.toNat + 7) / 8 := by decide

theorem witness_DigestIsRepeatable : ∃ t, exec (.skDigest true true) partialEngine = .next t := ⟨_, rfl⟩

theorem witness_DecryptInvertsEncrypt : chain256.length = Width.w256.words ∧ chain512.length = Width.w512.words := by
  decide

theorem witness_EncryptInvertsDecrypt : chain256.length = Width.w256.words ∧ chain512.length = Width.w512.words := by
  decide

theorem witness_EncryptThenDecryptReturnsTheBlock :
    ∃ s : State, s.tf.ready = true ∧ s.port.d0.length = s.tf.nb.bytes :=
  ⟨withPort (d0Only (zeros 128)) (cipher .w1024), by decide +kernel⟩

theorem witness_BytesAndWordsAreInverse :
    (zeros 16).length % 8 = 0 ∧ 8 * 1 + 7 < (zeros 16).length ∧ 7 < 8 := by decide

theorem witness_RoundPartsAreInvertible :
    (1 ≤ 63 ∧ 63 ≤ 63) ∧ 15 < Width.w1024.words ∧ [8, 35, 56, 22] ∈ rotations .w512 ∧ 8 ∈ [8, 35, 56, 22] := by decide

theorem witness_SubkeyWords : 12 < Width.w1024.words - 3 := by decide

theorem witness_TfSetupWritesTheContext :
    (∀ p ∈ [(32, Width.w256), (64, .w512), (128, .w1024)],
      ((zeros p.1).length, p.2) ∈ [(32, Width.w256), (64, .w512), (128, .w1024)] ∧ (zeros 16).length = 16) ∧
    ((zeros 31).length ∉ [32, 64, 128] ∧ (zeros 15).length ≠ 16) := by decide

theorem witness_TfEncryptAnswersTheCiphertext :
    (∃ s : State, s.tf.ready = true ∧ s.port.d0.length = s.tf.nb.bytes) ∧
    (∃ s : State, s.tf.ready = true ∧ s.port.d0.length ≠ s.tf.nb.bytes) ∧ ∃ s : State, s.tf.ready = false :=
  ⟨⟨withPort (d0Only (zeros 128)) (cipher .w1024), by decide +kernel⟩, ⟨withPort (d0Only (zeros 31)) (cipher .w256), by decide⟩,
    State.reset, rfl⟩

theorem witness_TfDecryptAnswersThePlaintext :
    (∃ s : State, s.tf.ready = true ∧ s.port.d0.length = s.tf.nb.bytes) ∧
    (∃ s : State, s.tf.ready = true ∧ s.port.d0.length ≠ s.tf.nb.bytes) ∧ ∃ s : State, s.tf.ready = false :=
  witness_TfEncryptAnswersTheCiphertext

theorem witness_TfGetTweakAnswersTheTweak :
    (∃ s : State, s.tf.ready = true) ∧ ∃ s : State, s.tf.ready = false := ⟨⟨cipher .w256, rfl⟩, State.reset, rfl⟩

theorem witness_TfSetTweakReplacesTheTweak :
    (∃ s : State, s.tf.ready = true ∧ s.port.d0.length = 16) ∧
    (∃ s : State, s.tf.ready = true ∧ s.port.d0.length ≠ 16) ∧ ∃ s : State, s.tf.ready = false :=
  ⟨⟨withPort (d0Only (zeros 16)) (cipher .w256), by decide⟩, ⟨withPort (d0Only (zeros 15)) (cipher .w256), by decide⟩,
    State.reset, rfl⟩

theorem witness_TweakReadsBackAsWritten :
    (∃ s u t : State, exec .tfSetTweak s = .next u ∧ u.status = 0x00#8 ∧ exec .tfGetTweak u = .next t) ∧
    ∃ s u t : State, exec .tfSetup s = .next u ∧ u.status = 0x00#8 ∧ exec .tfGetTweak u = .next t :=
  ⟨⟨withPort (d0Only (zeros 16)) (cipher .w256), _, _, rfl, rfl, rfl⟩,
    withPort { Operands.none with d0 := zeros 32, d1 := zeros 16 } State.reset, _, _, rfl, rfl, rfl⟩

theorem witness_EngineInvariantIsKept :
    ∃ s t : State, EngineInv s.sk ∧ s.sk.ready = true ∧ step s = .next t :=
  ⟨withCommand 0x00010002#32 { Operands.none with arg0 := 1#64, d0 := [0x80#8] } partialEngine, _,
    fun _ => partialEngine_wf, rfl, rfl⟩

theorem witness_CipherInvariantIsKept :
    ∃ s t : State, CipherInv s.tf ∧ s.tf.ready = true ∧ step s = .next t :=
  ⟨withCommand 0x00000014#32 (d0Only (zeros 16)) (cipher .w512), _,
    fun _ => ⟨by decide, by decide, by decide⟩, rfl, rfl⟩

theorem witness_StatusInvariantIsKept : ∃ s t : State, StatusInv s ∧ step s = .next t :=
  ⟨withCommand 0x00000003#32 Operands.none State.reset, _, ⟨⟨.ok, by decide, rfl⟩, fun h => absurd rfl h⟩, rfl⟩

end Sys2Proof.Tests
end

section
/-! The state's invariants, for the family 10_state: what a command can do to the state (R29, R24, R26) and what it
takes for a predicate to survive every step. -/

namespace Sys2Proof.Machine

/-! ## What a command does -/

/-- What a command can do to the state: fail with one of its errors (R63, R150), answer without writing a context, or
complete with one of the five writes to a context (R95, R99, R118, R126, R127). -/
inductive CommandEffect : Instr → State → State → Prop
  /-- The command reports an error of its row of R63, and writes nothing else. -/
  | fails {i : Instr} {s : State} {e : Status} (possible : e ∈ possibleStatuses i := by simp [possibleStatuses])
      (error : e ≠ .ok := by decide) : CommandEffect i s (s.fail e)
  /-- The command answers and leaves both contexts as they were. -/
  | answers {i : Instr} {s : State} (data : List Byte) : CommandEffect i s (s.respond data)
  /-- `SK_INIT` writes a fresh engine. -/
  | initializes {c : BitVec 2} {f : InitMask} {s : State} {w : Width} (width : Width.ofCode c = some w)
      (bits : s.port.arg0 ≠ 0) :
      CommandEffect (.skInit c f) s
        ((s.setSk (freshEngine w s.port.arg0 (initChain w s.port.arg0 (initInputs f s.port)))).respond [])
  /-- `SK_UPDATE` completes the partial byte the engine holds. -/
  | merges {b : Bool} {s : State} (ready : s.sk.ready = true)
      (present : updateBits b s.port ≤ 8 * s.port.d0.length) (held : s.sk.missing ≠ 0)
      (fits : updateBits b s.port ≤ s.sk.missing.val) :
      CommandEffect (.skUpdate b) s
        ((s.setSk (mergeUpdate s.port.d0 (updateBits b s.port) s.sk)).respond [])
  /-- `SK_UPDATE` absorbs its operand. -/
  | absorbs {b : Bool} {s : State} (ready : s.sk.ready = true)
      (present : updateBits b s.port ≤ 8 * s.port.d0.length) (whole : s.sk.missing = 0)
      (counts : s.sk.bytesHashed.toNat + bytesForBits (updateBits b s.port) < 2 ^ 64 - 1) :
      CommandEffect (.skUpdate b) s
        ((s.setSk (alignedUpdate s.port.d0 (updateBits b s.port) s.sk)).respond [])
  /-- `TF_SETUP` writes a fresh Threefish context. -/
  | setsUp {s : State} {w : Width} (key : s.port.d0.length = w.bytes) (tweak : s.port.d1.length = 16) :
      CommandEffect .tfSetup s ((s.setTf (freshCipher w s.port.d0 s.port.d1)).respond [])
  /-- `TF_SET_TWEAK` replaces the tweak. -/
  | setsTweak {s : State} (ready : s.tf.ready = true) (tweak : s.port.d0.length = 16) :
      CommandEffect .tfSetTweak s ((s.setTf (s.tf.setTweak s.port.d0)).respond [])

/-- Every command has one of those effects: the inversion lemmas of the commands, joined. -/
theorem exec_effect {i : Instr} {s t : State} (h : exec i s = .next t) : CommandEffect i s t := by
  cases i with
  | skInit c f =>
    obtain ⟨-, rfl⟩ | ⟨-, -, rfl⟩ | ⟨w, hw, ha, rfl⟩ := execSkInit_cases h
    · exact .fails
    · exact .fails
    · exact .initializes hw ha
  | skUpdate b =>
    obtain ⟨-, rfl⟩ | ⟨-, -, rfl⟩ | ⟨-, -, -, -, rfl⟩ | ⟨hr, hp, hm, hf, rfl⟩ | ⟨-, -, -, -, rfl⟩ |
      ⟨hr, hp, hm, hc, rfl⟩ := execSkUpdate_cases h
    · exact .fails
    · exact .fails
    · exact .fails
    · exact .merges hr hp hm hf
    · exact .fails
    · exact .absorbs hr hp hm hc
  | skDigest e st =>
    obtain ⟨-, rfl⟩ | ⟨-, -, rfl⟩ | ⟨-, -, -, rfl⟩ := execSkDigest_cases h
    · exact .fails
    · exact .fails
    · exact .answers _
  | tfSetup =>
    obtain ⟨-, rfl⟩ | ⟨w, hk, ht, rfl⟩ := execTfSetup_cases h
    · exact .fails
    · exact .setsUp hk ht
  | tfEncrypt =>
    obtain ⟨-, rfl⟩ | ⟨-, -, rfl⟩ | ⟨-, -, rfl⟩ := execTfEncrypt_cases h
    · exact .fails
    · exact .fails
    · exact .answers _
  | tfDecrypt =>
    obtain ⟨-, rfl⟩ | ⟨-, -, rfl⟩ | ⟨-, -, rfl⟩ := execTfDecrypt_cases h
    · exact .fails
    · exact .fails
    · exact .answers _
  | tfGetTweak =>
    obtain ⟨-, rfl⟩ | ⟨-, rfl⟩ := execTfGetTweak_cases h
    · exact .fails
    · exact .answers _
  | tfSetTweak =>
    obtain ⟨-, rfl⟩ | ⟨-, -, rfl⟩ | ⟨hr, ht, rfl⟩ := execTfSetTweak_cases h
    · exact .fails
    · exact .fails
    · exact .setsTweak hr ht

/-- What every step keeps: a predicate that holds after reset, does not look at the operands and the host's stream, and
survives an illegal word and every command. -/
theorem step_keeps {P : State → Prop} (reset : ∀ rest, P (afterReset rest))
    (drop : ∀ rest s, P s → P (s.dropInput rest)) (accept : ∀ tr rest s, P s → P (s.accept tr rest))
    (illegal : ∀ s, P s → P (s.fail .illegalCommand)) (command : ∀ i s t, P s → exec i s = .next t → P t)
    {s t : State} (hs : P s) (h : step s = .next t) : P t := by
  obtain ⟨-, rfl⟩ | ⟨rest, -, rfl⟩ | ⟨tr, rest, -, -, rfl⟩ | ⟨tr, rest, e, -, -, -, rfl⟩ |
    ⟨tr, rest, i, -, -, -, hi⟩ := step_cases h
  · exact hs
  · exact reset rest
  · exact drop rest s hs
  · exact illegal _ (accept tr rest s hs)
  · exact command i _ t (accept tr rest s hs) hi

/-! ## The byte counter (R24) -/

@[simp] theorem mergeUpdate_bytesHashed (d : List Byte) (k : Nat) (e : EngineCtx) :
    (mergeUpdate d k e).bytesHashed = e.bytesHashed := rfl

@[simp] theorem alignedUpdate_bytesHashed (d : List Byte) (bits : Nat) (e : EngineCtx) :
    (alignedUpdate d bits e).bytesHashed = e.bytesHashed + BitVec.ofNat 64 (bytesForBits bits) := rfl

/-- An aligned update that passed its overflow check adds its bytes to the counter, without wrapping. -/
theorem alignedUpdate_bytesHashed_toNat {d : List Byte} {bits : Nat} {e : EngineCtx}
    (h : e.bytesHashed.toNat + bytesForBits bits < 2 ^ 64 - 1) :
    (alignedUpdate d bits e).bytesHashed.toNat = e.bytesHashed.toNat + bytesForBits bits := by
  rw [alignedUpdate_bytesHashed, BitVec.toNat_add, BitVec.toNat_ofNat]
  omega

/-! ## The Threefish context (R26) -/

theorem cipherInv_reset : CipherInv CipherCtx.reset := fun h => by cases h

/-- An extended key is the extension of its key words. -/
theorem extendKey_eq_extendKey_take (k : List Word) : extendKey k = extendKey ((extendKey k).take k.length) := by
  congr 1
  exact (List.take_left' rfl).symm

theorem length_wordsOf_of_bytes {w : Width} {key : List Byte} (h : key.length = w.bytes) :
    (wordsOf key).length = w.words := by
  rw [length_wordsOf, h, Width.bytes]
  omega

/-- The third word of an operand's tweak is the XOR of the other two (R77). -/
theorem tweakWord_tweakOf_two (t : List Byte) :
    tweakWord (tweakOf t) 2 = tweakWord (tweakOf t) 0 ^^^ tweakWord (tweakOf t) 1 := rfl

theorem cipherWf_freshCipher {w : Width} {key : List Byte} (tweak : List Byte) (h : key.length = w.bytes) :
    CipherWf (freshCipher w key tweak) where
  words := by rw [freshCipher, length_extendKey, length_wordsOf_of_bytes h]
  parity := by
    rw [freshCipher, ← length_wordsOf_of_bytes h]
    exact extendKey_eq_extendKey_take _
  tweak := tweakWord_tweakOf_two tweak

theorem CipherWf.setTweak {c : CipherCtx} (h : CipherWf c) (tweak : List Byte) : CipherWf (c.setTweak tweak) where
  words := h.words
  parity := h.parity
  tweak := tweakWord_tweakOf_two tweak

/-- A command writes the Threefish context only by `TF_SETUP` and `TF_SET_TWEAK`, and both write legal values. -/
theorem exec_keeps_cipherInv {i : Instr} {s t : State} (hs : CipherInv s.tf) (h : exec i s = .next t) :
    CipherInv t.tf := by
  cases exec_effect h with
  | fails => exact hs
  | answers => exact hs
  | initializes => exact hs
  | merges => exact hs
  | absorbs => exact hs
  | setsUp key => exact fun _ => cipherWf_freshCipher _ key
  | setsTweak ready => exact fun _ => (hs ready).setTweak _

/-! ## The interface registers (R29, R63) -/

theorem statusInv_respond (data : List Byte) (s : State) : StatusInv (s.respond data) :=
  ⟨⟨.ok, by decide, rfl⟩, fun h => absurd rfl h⟩

theorem statusInv_afterReset (rest : List HostEvent) : StatusInv (afterReset rest) :=
  statusInv_respond [] (afterReset rest)

theorem statusInv_fail {e : Status} (s : State)
    (h : e ∈ [Status.ok, .invalidArgument, .overflow, .illegalCommand, .notConfigured]) : StatusInv (s.fail e) :=
  ⟨⟨e, h, rfl⟩, fun _ => rfl⟩

/-- No row of the status table has a reserved code (R63, R145, R146). -/
theorem possibleStatuses_subset (i : Instr) :
    possibleStatuses i ⊆ [Status.ok, .invalidArgument, .overflow, .illegalCommand, .notConfigured] := by
  cases i <;> simp [possibleStatuses]

/-- Every command ends by a response or by an error of its row. -/
theorem exec_statusInv {i : Instr} {s t : State} (h : exec i s = .next t) : StatusInv t := by
  cases exec_effect h with
  | fails possible => exact statusInv_fail _ (possibleStatuses_subset i possible)
  | answers => exact statusInv_respond _ _
  | initializes => exact statusInv_respond _ _
  | merges => exact statusInv_respond _ _
  | absorbs => exact statusInv_respond _ _
  | setsUp => exact statusInv_respond _ _
  | setsTweak => exact statusInv_respond _ _

/-! ## The statements -/

/-- Settles O38: the two paths of `SK_UPDATE` are the only other writes to the engine; the merge path leaves the
counter, and the aligned path has checked that it does not pass 2^64 - 2. -/
theorem bytesHashedIsMonotone : Obligations.BytesHashedIsMonotone := by
  unfold Obligations.BytesHashedIsMonotone
  intro i s t h hinit hcap
  cases exec_effect h with
  | fails => exact ⟨le_rfl, hcap⟩
  | answers => exact ⟨le_rfl, hcap⟩
  | initializes => exact absurd rfl (hinit _ _)
  | merges => simpa using hcap
  | absorbs _ _ _ counts =>
    rw [State.respond_sk, State.setSk_sk, alignedUpdate_bytesHashed_toNat counts]
    omega
  | setsUp => exact ⟨le_rfl, hcap⟩
  | setsTweak => exact ⟨le_rfl, hcap⟩

/-- Settles O59: after reset the context is unconfigured, and every command keeps it legal. -/
theorem cipherInvariantIsKept : Obligations.CipherInvariantIsKept := by
  unfold Obligations.CipherInvariantIsKept
  intro s t
  exact step_keeps (P := fun s => CipherInv s.tf) (reset := fun _ => cipherInv_reset) (drop := fun _ _ hs => hs)
    (accept := fun _ _ _ hs => hs) (illegal := fun _ hs => hs) (command := fun _ _ _ => exec_keeps_cipherInv)

/-- Settles O60: reset leaves `STATUS` OK, an illegal word its own error, and a command a status of its row. -/
theorem statusInvariantIsKept : Obligations.StatusInvariantIsKept := by
  unfold Obligations.StatusInvariantIsKept
  intro s t
  exact step_keeps (reset := statusInv_afterReset) (drop := fun _ _ hs => hs)
    (accept := fun _ _ _ hs => hs) (illegal := fun s _ => statusInv_fail s (by decide))
    (command := fun _ _ _ _ => exec_statusInv)

/-- Settles O11: the values `State.reset` writes out (R162). -/
theorem resetStateValues : Obligations.ResetStateValues := by
  unfold Obligations.ResetStateValues
  exact ⟨rfl, rfl, rfl, rfl⟩

end Sys2Proof.Machine
end

section
/-! Byte strings, words and the host's interface, for the family 20_memory: bytes and words convert position by position
(R8, R42), the bits of a partial byte (R43, R125), and what a step makes of the host's next event (R47, R52, R65). -/

namespace Sys2Proof.Machine

/-! ## Positions of byte strings and word lists (R8, R42)

A byte string is its bytes, a word list its words, and a word its eight bytes; each conversion is then one equation
that says what stands at a position. -/

theorem byteAt_of_lt {s : List Byte} {n : Nat} (h : n < s.length) : byteAt s n = s[n] := List.getD_eq_getElem s 0 h

theorem wordAt_of_lt {ws : List Word} {i : Nat} (h : i < ws.length) : wordAt ws i = ws[i] :=
  List.getD_eq_getElem ws 0 h

theorem eq_of_byteAt_eq {s t : List Byte} (hl : s.length = t.length)
    (h : ∀ n, n < t.length → byteAt s n = byteAt t n) : s = t :=
  List.ext_getElem hl fun n hs ht => by rw [← byteAt_of_lt hs, ← byteAt_of_lt ht, h n ht]

theorem eq_of_wordAt_eq {vs ws : List Word} (hl : vs.length = ws.length)
    (h : ∀ i, i < ws.length → wordAt vs i = wordAt ws i) : vs = ws :=
  List.ext_getElem hl fun i hv hw => by rw [← wordAt_of_lt hv, ← wordAt_of_lt hw, h i hw]

/-- A word is its eight bytes: bit `b` is bit `b % 8` of byte `b / 8`. -/
theorem word_eq_of_bytes {x y : Word} (h : ∀ j, j < 8 → x.extractLsb' (8 * j) 8 = y.extractLsb' (8 * j) 8) :
    x = y := by
  refine BitVec.eq_of_getLsbD_eq fun b hb => ?_
  have hbyte := congrArg (·.getLsbD (b % 8)) (h (b / 8) (by omega))
  simpa [BitVec.getLsbD_extractLsb', Nat.mod_lt, Nat.div_add_mod] using hbyte

/-- Byte `j` of `LE64(s, i)` (R8): the `j` bytes below it are dropped, and it is the low end of what is left. -/
theorem extractLsb'_le64 (s : List Byte) (i : Nat) {j : Nat} (h : j < 8) :
    (le64 s i).extractLsb' (8 * j) 8 = byteAt s (8 * i + j) := by
  interval_cases j <;>
    simp [le64, BitVec.extractLsb'_append_eq_of_le (w := 8), BitVec.extractLsb'_append_eq_right (w' := 8)]

theorem wordAt_wordsOf {s : List Byte} {i : Nat} (h : i < s.length / 8) : wordAt (wordsOf s) i = le64 s i := by
  rw [wordAt_of_lt (by simpa using h)]
  simp [wordsOf]

theorem byteAt_leBytes (x : Word) {j : Nat} (h : j < 8) : byteAt (leBytes x) j = x.extractLsb' (8 * j) 8 := by
  rw [byteAt_of_lt (by simpa using h)]
  simp [leBytes]

theorem bytesOf_cons (x : Word) (ws : List Word) : bytesOf (x :: ws) = leBytes x ++ bytesOf ws := rfl

theorem byteAt_bytesOf {ws : List Word} {i j : Nat} (hi : i < ws.length) (hj : j < 8) :
    byteAt (bytesOf ws) (8 * i + j) = (wordAt ws i).extractLsb' (8 * j) 8 := by
  induction ws generalizing i with
  | nil => cases hi
  | cons x xs ih =>
    rw [bytesOf_cons]
    cases i with
    | zero => rw [Nat.mul_zero, Nat.zero_add, byteAt_append_left _ _ _ hj, byteAt_leBytes x hj]; rfl
    | succ i =>
      rw [byteAt_append_right _ _ _ (by simp; omega), length_leBytes,
        show 8 * (i + 1) + j - 8 = 8 * i + j by omega, ih (Nat.lt_of_succ_lt_succ hi)]
      rfl

/-- Byte `j` of word `i` is byte `8i + j`, wherever the string has a whole word `i`. -/
theorem extractLsb'_wordAt_wordsOf {s : List Byte} {i j : Nat} (hi : i < s.length / 8) (hj : j < 8) :
    (wordAt (wordsOf s) i).extractLsb' (8 * j) 8 = byteAt s (8 * i + j) := by
  rw [wordAt_wordsOf hi, extractLsb'_le64 s i hj]

/-- `Words` undoes `Bytes`: byte `j` of word `i` is on both sides byte `8i + j` of the string. -/
@[simp] theorem wordsOf_bytesOf (ws : List Word) : wordsOf (bytesOf ws) = ws := by
  refine eq_of_wordAt_eq (by simp) fun i hi => word_eq_of_bytes fun j hj => ?_
  rw [extractLsb'_wordAt_wordsOf (by simpa using hi) hj, byteAt_bytesOf hi hj]

/-- `Bytes` undoes `Words` on whole words: byte `n` is byte `n % 8` of word `n / 8`. -/
theorem bytesOf_wordsOf {s : List Byte} (h : s.length % 8 = 0) : bytesOf (wordsOf s) = s := by
  refine eq_of_byteAt_eq (by simp; omega) fun n hn => ?_
  have hw : n / 8 < s.length / 8 := by omega
  have hb : n % 8 < 8 := Nat.mod_lt n (by decide)
  rw [← Nat.div_add_mod n 8, byteAt_bytesOf (by simpa using hw) hb, extractLsb'_wordAt_wordsOf hw hb]

/-! ## The bits of a partial byte (R43, R125) -/

/-- The mask `0xFF << n` has the bits from `n` up. -/
theorem getLsbD_ff_shiftLeft (n j : Nat) : (0xFF#8 <<< n).getLsbD j = (decide (n ≤ j) && decide (j < 8)) := by
  rw [show (0xFF#8) = BitVec.allOnes 8 from rfl, BitVec.getLsbD_shiftLeft, BitVec.getLsbD_allOnes]
  grind

/-- The terminator `0x80 >> r` is the one bit `7 - r`. -/
theorem getLsbD_80_ushiftRight (r j : Nat) : (0x80#8 >>> r).getLsbD j = decide (r + j = 7) := by
  rw [show (0x80#8) = BitVec.twoPow 8 7 from rfl, BitVec.getLsbD_ushiftRight, BitVec.getLsbD_twoPow]
  grind

theorem getLsbD_partialByte (b : Byte) (r j : Nat) :
    (partialByte b r).getLsbD j =
      (b.getLsbD j && (decide (8 - r ≤ j) && decide (j < 8)) || decide (r + j = 7)) := by
  rw [partialByte, BitVec.getLsbD_or, BitVec.getLsbD_and, getLsbD_ff_shiftLeft, getLsbD_80_ushiftRight]

/-! ## What a step makes of the host's next event (R47, R52) -/

theorem step_of_idle {s : State} (h : s.inputs = []) : step s = .next s := by
  simp only [step, h]

theorem step_of_fit {s : State} {t : Transaction} {rest : List HostEvent} (h : s.inputs = .command t :: rest)
    (hf : t.operands.fit = true) : step s = runCommand t.cmd (s.accept t rest) := by
  simp only [step, h, hf, if_true]

theorem step_of_oversize {s : State} {t : Transaction} {rest : List HostEvent} (h : s.inputs = .command t :: rest)
    (hf : t.operands.fit = false) : step s = .next (s.dropInput rest) := by
  simp [step, h, hf]

theorem runCommand_of_decode {cmd : CmdWord} {i : Instr} (h : decode cmd = .command i) (s : State) :
    runCommand cmd s = exec i s := by
  simp only [runCommand, h]

/-- One operand over the limit is enough for the interface to refuse the transaction. -/
theorem Operands.fit_eq_false_iff (o : Operands) :
    o.fit = false ↔ ∃ d ∈ [o.d0, o.d1, o.d2, o.d3, o.d4], d.length > Config.maxPayloadBytes := by
  rw [← Bool.not_eq_true, Operands.fit_iff]
  push Not
  rfl

/-! ## The statements -/

/-- Settles O47: both conversions are determined byte by byte. -/
theorem bytesAndWordsAreInverse : Obligations.BytesAndWordsAreInverse := by
  unfold Obligations.BytesAndWordsAreInverse
  refine ⟨wordsOf_bytesOf, fun s => bytesOf_wordsOf, fun s i j hwhole hlt hj => ?_⟩
  exact extractLsb'_wordAt_wordsOf (by omega) hj

/-- Settles O6: a transaction that fits is accepted, and its word is run as the command it decodes to. -/
theorem stepRunsDecodedCommand : Obligations.StepRunsDecodedCommand := by
  unfold Obligations.StepRunsDecodedCommand
  intro s t rest i hin hfit hdec
  rw [step_of_fit hin hfit, runCommand_of_decode hdec]
  rfl

/-- Settles O7: the block waits with nothing pending, and the interface drops a transaction with an operand over its
limit. -/
theorem stepWithoutACommand : Obligations.StepWithoutACommand := by
  unfold Obligations.StepWithoutACommand
  refine ⟨fun s => step_of_idle, fun s t rest hin hover => ?_⟩
  exact step_of_oversize hin ((Operands.fit_eq_false_iff t.operands).mpr hover)

/-- Settles O30: the mask keeps the bits from `8 - r` up, and the terminator is bit `7 - r`, below them. -/
theorem partialByteShape : Obligations.PartialByteShape := by
  unfold Obligations.PartialByteShape
  intro b r hr hr7
  refine ⟨fun j hlo hhi => ?_, ?_, fun j hj => ?_⟩
  · have hkept : j < 8 := by omega
    have hterm : r + j ≠ 7 := by omega
    rw [getLsbD_partialByte]
    simp [hlo, hkept, hterm]
  · have hterm : r + (7 - r) = 7 := by omega
    rw [getLsbD_partialByte]
    simp [hterm]
  · have hcleared : ¬ 8 - r ≤ j := by omega
    have hterm : r + j ≠ 7 := by omega
    rw [getLsbD_partialByte]
    simp [hcleared, hterm]

end Sys2Proof.Machine
end

section
/-! The command word and what a command reads from its transaction, for the family 30_encoding: the five fields of a
word (R54), the decoder's graph (R55 to R59), the legal words by clause and by pattern (R64, R68), the statuses of a
command (R63), the operands it uses (R62), and the tweak as bytes (R70). -/

namespace Sys2Proof

open Machine
open Laws.EncodedWord (opcodeOf)

/-! ## The five fields of a command word (R54) -/

/-- The word with the given fields, reserved bits included (R54). -/
def joinFields (high : BitVec 11) (f : BitVec 5) (low : BitVec 6) (w : BitVec 2) (opc : BitVec 8) : CmdWord :=
  high ++ f ++ low ++ w ++ opc

section
variable (high : BitVec 11) (f : BitVec 5) (low : BitVec 6) (w : BitVec 2) (opc : BitVec 8)

@[simp] theorem opcodeField_joinFields : opcodeField (joinFields high f low w opc) = opc :=
  BitVec.extractLsb'_append_eq_right

@[simp] theorem widthField_joinFields : widthField (joinFields high f low w opc) = w := by
  rw [widthField, joinFields, BitVec.extractLsb'_append_eq_of_le (w := 8) (by decide)]
  exact BitVec.extractLsb'_append_eq_right

@[simp] theorem reservedLow_joinFields : reservedLow (joinFields high f low w opc) = low := by
  rw [reservedLow, joinFields, BitVec.extractLsb'_append_eq_of_le (w := 8) (by decide),
    BitVec.extractLsb'_append_eq_of_le (w := 2) (by decide)]
  exact BitVec.extractLsb'_append_eq_right

@[simp] theorem flagField_joinFields : flagField (joinFields high f low w opc) = f := by
  rw [flagField, joinFields, BitVec.extractLsb'_append_eq_of_le (w := 8) (by decide),
    BitVec.extractLsb'_append_eq_of_le (w := 2) (by decide), BitVec.extractLsb'_append_eq_of_le (w := 6) (by decide)]
  exact BitVec.extractLsb'_append_eq_right

@[simp] theorem reservedHigh_joinFields : reservedHigh (joinFields high f low w opc) = high := by
  rw [reservedHigh, joinFields, BitVec.extractLsb'_append_eq_of_le (w := 8) (by decide),
    BitVec.extractLsb'_append_eq_of_le (w := 2) (by decide), BitVec.extractLsb'_append_eq_of_le (w := 6) (by decide)]
  exact BitVec.extractLsb'_append_eq_left

end

/-- A command word is its five fields, one beside the other. -/
@[simp] theorem joinFields_fields (cmd : CmdWord) :
    joinFields (reservedHigh cmd) (flagField cmd) (reservedLow cmd) (widthField cmd) (opcodeField cmd) = cmd := by
  have join {m n k : Nat} (h : m = k + n) (l : Nat) :
      cmd.extractLsb' m l ++ cmd.extractLsb' k n = cmd.extractLsb' k (l + n) :=
    BitVec.extractLsb'_append_extractLsb'_eq_extractLsb' h
  calc
    _ = cmd.extractLsb' 0 32 := by
      simp only [joinFields, reservedHigh, flagField, reservedLow, widthField, opcodeField]
      rw [join (by rfl), join (by rfl), join (by rfl), join (by rfl)]
    _ = cmd := BitVec.extractLsb'_eq_self

/-- The word whose fields are known. -/
theorem eq_joinFields_iff {cmd : CmdWord} {high : BitVec 11} {f : BitVec 5} {low : BitVec 6} {w : BitVec 2}
    {opc : BitVec 8} :
    cmd = joinFields high f low w opc ↔
      reservedHigh cmd = high ∧ reservedLow cmd = low ∧ opcodeField cmd = opc ∧ widthField cmd = w ∧
        flagField cmd = f := by
  refine ⟨fun h => by simp [h], ?_⟩
  rintro ⟨rfl, rfl, rfl, rfl, rfl⟩
  exact (joinFields_fields cmd).symm

theorem joinFields_and (h h' : BitVec 11) (f f' : BitVec 5) (l l' : BitVec 6) (w w' : BitVec 2) (o o' : BitVec 8) :
    joinFields h f l w o &&& joinFields h' f' l' w' o' =
      joinFields (h &&& h') (f &&& f') (l &&& l') (w &&& w') (o &&& o') := by
  simp only [joinFields, ← BitVec.and_append]

/-! ## The word of a command (R55 to R59) -/

@[simp] theorem InitMask.ofBits_toBits (m : InitMask) : InitMask.ofBits m.toBits = m := by
  obtain ⟨key, prs, pk, kid, non⟩ := m
  revert key prs pk kid non
  decide

@[simp] theorem InitMask.toBits_ofBits (f : BitVec 5) : (InitMask.ofBits f).toBits = f := by
  revert f
  decide

/-- The width code of a command's word: 0 but in `SK_INIT` (R56, R64 (3)). -/
def Instr.widthBits : Instr → BitVec 2
  | .skInit w _ => w
  | _ => 0#2

/-- The flag field of a command's word: the bits its opcode defines, the others 0 (R57 to R59, R64 (4)). -/
def Instr.flagBits : Instr → BitVec 5
  | .skInit _ f => f.toBits
  | .skUpdate b => 0#4 ++ BitVec.ofBool b
  | .skDigest e st => 0#3 ++ BitVec.ofBool e ++ BitVec.ofBool st
  | _ => 0#5

theorem encode_eq_joinFields (i : Instr) : encode i = joinFields 0#11 i.flagBits 0#6 i.widthBits (opcodeOf i) := by
  cases i <;> rfl

/-- The fields `OPC`, `W` and `F` are those of the word of the well-formed command `i`. -/
def Instr.HasFields (i : Instr) (opc : BitVec 8) (w : BitVec 2) (f : BitVec 5) : Prop :=
  i.wellFormed = true ∧ opc = opcodeOf i ∧ w = i.widthBits ∧ f = i.flagBits

/-! ## What the decoder accepts -/

theorem decodeSkInit_eq_command_iff (w : BitVec 2) (f : BitVec 5) (i : Instr) :
    decodeSkInit w f = .command i ↔ widthCodeLegal w ∧ i = .skInit w (InitMask.ofBits f) := by
  unfold decodeSkInit
  split_ifs with hw <;> simp [widthCodeLegal, hw, eq_comm]

theorem decodeChecked_eq_command_iff (k : Nat) (j : Instr) (w : BitVec 2) (f : BitVec 5) (i : Instr) :
    decodeChecked k j w f = .command i ↔ w = 0#2 ∧ f >>> k = 0#5 ∧ i = j := by
  unfold decodeChecked
  split_ifs with hw hf
  · simp [hw]
  · simp [hf]
  · simp [not_not.mp hw, not_not.mp hf, eq_comm]

/-- A flag field without undefined bits is the flag field of the command read from it: `F[4:1] = 0`. -/
theorem flagBits_skUpdate : ∀ f : BitVec 5, f >>> 1 = 0#5 → f = (Instr.skUpdate (f.getLsbD 0)).flagBits := by decide

/-- The same where `F[4:2] = 0`. -/
theorem flagBits_skDigest :
    ∀ f : BitVec 5, f >>> 2 = 0#5 → f = (Instr.skDigest (f.getLsbD 1) (f.getLsbD 0)).flagBits := by decide

theorem hasFields_of_decodeChecked {k : Nat} {j : Instr} {w : BitVec 2} {f : BitVec 5} {i : Instr}
    (h : decodeChecked k j w f = .command i) (hf : f >>> k = 0#5 → f = j.flagBits)
    (hj : j.wellFormed = true := by rfl) (hw : j.widthBits = 0#2 := by rfl) : i.HasFields (opcodeOf j) w f := by
  obtain ⟨rfl, hk, rfl⟩ := (decodeChecked_eq_command_iff k j w f i).1 h
  exact ⟨hj, rfl, hw.symm, hf hk⟩

/-- The opcode map yields a command only from its own fields. -/
theorem hasFields_of_decodeOpcode {opc : BitVec 8} {w : BitVec 2} {f : BitVec 5} {i : Instr}
    (h : decodeOpcode opc w f = .command i) : i.HasFields opc w f := by
  have noFlags (hk : f >>> 0 = 0#5) : f = 0#5 := by simpa using hk
  unfold decodeOpcode at h
  split_ifs at h
  all_goals subst opc
  · obtain ⟨hw, rfl⟩ := (decodeSkInit_eq_command_iff w f i).1 h
    exact ⟨decide_eq_true hw, rfl, rfl, (InitMask.toBits_ofBits f).symm⟩
  · exact hasFields_of_decodeChecked h (flagBits_skUpdate f)
  · exact hasFields_of_decodeChecked h (flagBits_skDigest f)
  · exact hasFields_of_decodeChecked h noFlags
  · exact hasFields_of_decodeChecked h noFlags
  · exact hasFields_of_decodeChecked h noFlags
  · exact hasFields_of_decodeChecked h noFlags
  · exact hasFields_of_decodeChecked h noFlags

/-- The opcode map yields every well-formed command from its own fields. -/
theorem decodeOpcode_own_fields {i : Instr} (h : i.wellFormed = true) :
    decodeOpcode (opcodeOf i) i.widthBits i.flagBits = .command i := by
  cases i with
  | skInit w f =>
    exact (decodeSkInit_eq_command_iff w f.toBits _).2 ⟨of_decide_eq_true h, by rw [InitMask.ofBits_toBits]⟩
  | skUpdate b => cases b <;> rfl
  | skDigest e st => cases e <;> cases st <;> rfl
  | tfSetup => rfl
  | tfEncrypt => rfl
  | tfDecrypt => rfl
  | tfGetTweak => rfl
  | tfSetTweak => rfl

theorem decodeOpcode_eq_command_iff {opc : BitVec 8} {w : BitVec 2} {f : BitVec 5} {i : Instr} :
    decodeOpcode opc w f = .command i ↔ i.HasFields opc w f := by
  refine ⟨hasFields_of_decodeOpcode, ?_⟩
  rintro ⟨hi, rfl, rfl, rfl⟩
  exact decodeOpcode_own_fields hi

/-- The decoder checks the reserved bits, then the opcode map. -/
theorem decode_eq_command_iff_fields {cmd : CmdWord} {i : Instr} :
    decode cmd = .command i ↔
      reservedHigh cmd = 0#11 ∧ reservedLow cmd = 0#6 ∧
        decodeOpcode (opcodeField cmd) (widthField cmd) (flagField cmd) = .command i := by
  unfold decode
  split_ifs with hh hl
  · simp [hh]
  · simp [hl]
  · simp [not_not.mp hh, not_not.mp hl]

/-- The graph of the decoder: the words of the well-formed commands. -/
theorem decode_eq_command_iff {cmd : CmdWord} {i : Instr} :
    decode cmd = .command i ↔ i.wellFormed = true ∧ encode i = cmd := by
  rw [decode_eq_command_iff_fields, decodeOpcode_eq_command_iff, Instr.HasFields, encode_eq_joinFields,
    eq_comm (b := cmd), eq_joinFields_iff]
  tauto

/-! ## The legal words (R64) -/

/-- R64 (1). -/
def legalOpcodes : List (BitVec 8) := [0x01#8, 0x02#8, 0x03#8, 0x10#8, 0x11#8, 0x12#8, 0x13#8, 0x14#8]

theorem opcodeOf_mem_legalOpcodes (i : Instr) : opcodeOf i ∈ legalOpcodes := by
  cases i <;> simp [legalOpcodes, opcodeOf]

/-- R64 (3). -/
def widthAllowed (opc : BitVec 8) (w : BitVec 2) : Prop := (opc ≠ 0x01#8 → w = 0#2) ∧ (opc = 0x01#8 → w ≠ 3#2)

/-- R64 (4). -/
def flagsAllowed (opc : BitVec 8) (f : BitVec 5) : Prop :=
  (opc ∈ [0x10#8, 0x11#8, 0x12#8, 0x13#8, 0x14#8] → f = 0#5) ∧ (opc = 0x02#8 → f >>> 1 = 0#5) ∧
    (opc = 0x03#8 → f >>> 2 = 0#5)

/-- The opcode map yields a command exactly under R64 (1), (3) and (4). -/
theorem exists_decodeOpcode_eq_command_iff (opc : BitVec 8) (w : BitVec 2) (f : BitVec 5) :
    (∃ i, decodeOpcode opc w f = .command i) ↔ opc ∈ legalOpcodes ∧ widthAllowed opc w ∧ flagsAllowed opc f := by
  by_cases hopc : opc ∈ legalOpcodes
  · simp only [legalOpcodes, List.mem_cons, List.not_mem_nil, or_false] at hopc
    rcases hopc with rfl | rfl | rfl | rfl | rfl | rfl | rfl | rfl
    all_goals
      simp [decodeOpcode, decodeSkInit_eq_command_iff, decodeChecked_eq_command_iff, legalOpcodes, widthAllowed,
        flagsAllowed]
  · refine iff_of_false ?_ (fun h => hopc h.1)
    rintro ⟨i, hi⟩
    obtain ⟨-, rfl, -⟩ := hasFields_of_decodeOpcode hi
    exact hopc (opcodeOf_mem_legalOpcodes i)

theorem exists_decode_eq_command_iff (cmd : CmdWord) :
    (∃ i, decode cmd = .command i) ↔
      opcodeField cmd ∈ legalOpcodes ∧ (reservedHigh cmd = 0#11 ∧ reservedLow cmd = 0#6) ∧
        widthAllowed (opcodeField cmd) (widthField cmd) ∧ flagsAllowed (opcodeField cmd) (flagField cmd) := by
  simp only [decode_eq_command_iff_fields, exists_and_left, exists_decodeOpcode_eq_command_iff]
  tauto

/-- The bits of `F` from `k` up, as bits of the word. -/
theorem flagField_ushiftRight_eq_zero_iff (cmd : CmdWord) (k : Nat) :
    flagField cmd >>> k = 0#5 ↔ cmd.extractLsb' (16 + k) (5 - k) = 0#(5 - k) := by
  simp only [BitVec.eq_of_getLsbD_eq_iff, flagField, BitVec.getLsbD_ushiftRight, BitVec.getLsbD_extractLsb',
    BitVec.getLsbD_zero]
  grind

/-- Any other word raises `IllegalCommand` (R142). -/
theorem Machine.runCommand_of_not_command {cmd : CmdWord} (h : ¬ ∃ i, decode cmd = .command i) (s : State) :
    runCommand cmd s = .next (s.fail .illegalCommand) := by
  unfold runCommand
  split
  next i hi => exact absurd ⟨i, hi⟩ h
  next => rfl

/-! ## The pattern table (R68) -/

/-- The mask of a row of R68: the opcode and the reserved bits, and those bits of `F` and `W` that are fixed at 0. -/
def patternMask (f : BitVec 5) (w : BitVec 2) : CmdWord :=
  joinFields (BitVec.allOnes 11) f (BitVec.allOnes 6) w (BitVec.allOnes 8)

theorem and_patternMask_eq_iff (cmd : CmdWord) (f : BitVec 5) (w : BitVec 2) (opc : BitVec 8) :
    cmd &&& patternMask f w = joinFields 0#11 0#5 0#6 0#2 opc ↔
      reservedHigh cmd = 0#11 ∧ reservedLow cmd = 0#6 ∧ opcodeField cmd = opc ∧ widthField cmd &&& w = 0#2 ∧
        flagField cmd &&& f = 0#5 := by
  conv_lhs => rw [← joinFields_fields cmd, patternMask, joinFields_and]
  simp only [eq_joinFields_iff, reservedHigh_joinFields, reservedLow_joinFields, opcodeField_joinFields,
    widthField_joinFields, flagField_joinFields, BitVec.and_allOnes]

/-- The bits of `F` that a row fixes at 0. -/
def fixedFlags (opc : BitVec 8) : BitVec 5 :=
  if opc = 0x01#8 then 0x00#5 else if opc = 0x02#8 then 0x1E#5 else if opc = 0x03#8 then 0x1C#5 else 0x1F#5

/-- The bits of `W` that a row fixes at 0. -/
def fixedWidth (opc : BitVec 8) : BitVec 2 := if opc = 0x01#8 then 0#2 else 3#2

/-- The row of an opcode: its match and its mask. -/
def patternRow (opc : BitVec 8) : CmdWord × CmdWord :=
  (joinFields 0#11 0#5 0#6 0#2 opc, patternMask (fixedFlags opc) (fixedWidth opc))

theorem flagsAllowed_iff_fixedFlags {opc : BitVec 8} (h : opc ∈ legalOpcodes) (f : BitVec 5) :
    flagsAllowed opc f ↔ f &&& fixedFlags opc = 0#5 := by
  revert f
  unfold flagsAllowed
  revert opc
  decide

theorem widthField_fixed_of_allowed {opc : BitVec 8} {w : BitVec 2} (h : widthAllowed opc w) :
    w &&& fixedWidth opc = 0#2 := by
  unfold fixedWidth
  split_ifs with hopc
  · exact BitVec.and_zero
  · rw [h.1 hopc, BitVec.zero_and]

/-- Under R64 (3), the rows of R68 are R64 (1), (2) and (4). -/
theorem exists_patternRow_iff {cmd : CmdWord} (hw : widthAllowed (opcodeField cmd) (widthField cmd)) :
    (∃ row ∈ legalOpcodes.map patternRow, cmd &&& row.2 = row.1) ↔
      opcodeField cmd ∈ legalOpcodes ∧ (reservedHigh cmd = 0#11 ∧ reservedLow cmd = 0#6) ∧
        flagsAllowed (opcodeField cmd) (flagField cmd) := by
  simp only [List.mem_map, exists_exists_and_eq_and]
  constructor
  · rintro ⟨opc, hopc, hrow⟩
    obtain ⟨hhigh, hlow, rfl, -, hf⟩ := (and_patternMask_eq_iff cmd _ _ opc).1 hrow
    exact ⟨hopc, ⟨hhigh, hlow⟩, (flagsAllowed_iff_fixedFlags hopc _).2 hf⟩
  · rintro ⟨hopc, ⟨hhigh, hlow⟩, hf⟩
    exact ⟨_, hopc, (and_patternMask_eq_iff cmd _ _ _).2
      ⟨hhigh, hlow, rfl, widthField_fixed_of_allowed hw, (flagsAllowed_iff_fixedFlags hopc _).1 hf⟩⟩

/-! ## The statements about the command word -/

/-- Settles O1: the decoder's graph is the words of the well-formed commands. -/
theorem decodeEncodeRoundTrip : Obligations.DecodeEncodeRoundTrip := by
  unfold Obligations.DecodeEncodeRoundTrip
  exact fun i hi => decode_eq_command_iff.2 ⟨hi, rfl⟩

/-- Settles O2: the same graph, read from the word. -/
theorem encodeOfDecodedWord : Obligations.EncodeOfDecodedWord := by
  unfold Obligations.EncodeOfDecodedWord
  exact fun cmd i h => decode_eq_command_iff.1 h

/-- Settles O3: the decoder accepts under the clauses of R64 on the fields, which are bits of the word. -/
theorem legalWordsAndIllegalCommand : Obligations.LegalWordsAndIllegalCommand := by
  unfold Obligations.LegalWordsAndIllegalCommand
  refine fun cmd => ⟨?_, runCommand_of_not_command⟩
  rw [exists_decode_eq_command_iff, flagsAllowed, flagField_ushiftRight_eq_zero_iff,
    flagField_ushiftRight_eq_zero_iff]
  rfl

/-- Settles O4: the table is `patternRow` on the legal opcodes, and it checks all of R64 but clause (3). -/
theorem legalWordsByMaskAndMatch : Obligations.LegalWordsByMaskAndMatch := by
  unfold Obligations.LegalWordsByMaskAndMatch
  intro cmd
  rw [exists_decode_eq_command_iff]
  change _ ↔ (∃ row ∈ legalOpcodes.map patternRow, cmd &&& row.2 = row.1) ∧
    widthAllowed (opcodeField cmd) (widthField cmd)
  rw [and_congr_left exists_patternRow_iff]
  tauto

/-- Settles O5: the decoder evaluated on the words of R69. -/
theorem exampleWordsDecode : Obligations.ExampleWordsDecode := by
  unfold Obligations.ExampleWordsDecode
  have reservedWidth : decode 0x00000301#32 = .illegal .reservedWidth := by decide
  have undefinedFlag : decode 0x00020002#32 = .illegal .undefinedFlag := by decide
  refine ⟨by decide, by decide, by decide, by decide, by decide, by decide, by decide, by decide, fun i => ?_,
    fun i => ?_⟩
  · rw [reservedWidth]
    exact Decoded.noConfusion
  · rw [undefinedFlag]
    exact Decoded.noConfusion

namespace Machine

/-! ## The statuses of a command (R63) -/

theorem ok_mem_possibleStatuses (i : Instr) : Status.ok ∈ possibleStatuses i := by
  cases i <;> simp [possibleStatuses]

/-- A command that completes reports OK, and one that fails a status of its row. -/
theorem exec_status {i : Instr} {s t : State} (h : exec i s = .next t) :
    ∃ c ∈ possibleStatuses i, t.status = c.code := by
  cases exec_effect h with
  | fails possible => exact ⟨_, possible, rfl⟩
  | answers => exact ⟨.ok, ok_mem_possibleStatuses _, rfl⟩
  | initializes => exact ⟨.ok, ok_mem_possibleStatuses _, rfl⟩
  | merges => exact ⟨.ok, ok_mem_possibleStatuses _, rfl⟩
  | absorbs => exact ⟨.ok, ok_mem_possibleStatuses _, rfl⟩
  | setsUp => exact ⟨.ok, ok_mem_possibleStatuses _, rfl⟩
  | setsTweak => exact ⟨.ok, ok_mem_possibleStatuses _, rfl⟩

/-- A command whose row lacks `IllegalCommand` does not report it. -/
theorem exec_status_ne_illegalCommand {i : Instr} {s t : State} (h : exec i s = .next t)
    (hrow : Status.illegalCommand ∉ possibleStatuses i := by simp [possibleStatuses]) :
    t.status ≠ Status.illegalCommand.code := by
  obtain ⟨c, hc, hs⟩ := exec_status h
  rw [hs, Ne, Status.code_injective]
  exact fun hcode => hrow (hcode ▸ hc)

/-- `SK_INIT` reports `IllegalCommand` for the reserved width code, and for nothing else (R64 (3)). -/
theorem execSkInit_illegalCommand_iff {c : BitVec 2} {f : InitMask} {s t : State} (h : execSkInit c f s = .next t) :
    t.status = Status.illegalCommand.code ↔ c = 3#2 := by
  obtain ⟨hc, rfl⟩ | ⟨hc, -, rfl⟩ | ⟨w, hw, -, rfl⟩ := execSkInit_cases h
  · simp [hc]
  · simp [hc, Status.code_injective]
  · have hc : c ≠ 3#2 := fun hc => by simp [(Width.ofCode_eq_none_iff c).2 hc] at hw
    simp [hc, Status.code_injective]

theorem exec_illegalCommand_iff {i : Instr} {s t : State} (h : exec i s = .next t) :
    t.status = Status.illegalCommand.code ↔ i.wellFormed = false := by
  cases i with
  | skInit c f => simpa [Instr.wellFormed] using execSkInit_illegalCommand_iff h
  | skUpdate b => exact iff_of_false (exec_status_ne_illegalCommand h) Bool.noConfusion
  | skDigest e st => exact iff_of_false (exec_status_ne_illegalCommand h) Bool.noConfusion
  | tfSetup => exact iff_of_false (exec_status_ne_illegalCommand h) Bool.noConfusion
  | tfEncrypt => exact iff_of_false (exec_status_ne_illegalCommand h) Bool.noConfusion
  | tfDecrypt => exact iff_of_false (exec_status_ne_illegalCommand h) Bool.noConfusion
  | tfGetTweak => exact iff_of_false (exec_status_ne_illegalCommand h) Bool.noConfusion
  | tfSetTweak => exact iff_of_false (exec_status_ne_illegalCommand h) Bool.noConfusion

/-! ## The operands a command uses (R62)

Each command reads the port through the values below, and `usedOperands` keeps them all. -/

/-- The state with other operands on the port. -/
def State.setPort (o : Operands) (s : State) : State := { s with port := o }

@[simp] theorem State.setPort_port (o : Operands) (s : State) : (s.setPort o).port = o := rfl

/-- The outcome with other operands on the port of its state. -/
def outcomeSetPort (o : Operands) :
    Host.Outcome State Fault Refusal → Host.Outcome State Fault Refusal
  | .next s => .next (s.setPort o)
  | .fault r => .fault r
  | .refused r => .refused r

theorem outcomeSetPort_ite (o : Operands) (p : Prop) [Decidable p] (x y : Host.Outcome State Fault Refusal) :
    outcomeSetPort o (if p then x else y) = if p then outcomeSetPort o x else outcomeSetPort o y :=
  apply_ite (outcomeSetPort o) p x y

theorem optionalInput_ite_nil (flag : Bool) (d : List Byte) :
    optionalInput flag (if flag then d else []) = optionalInput flag d := by
  cases flag <;> rfl

theorem initInputs_usedOperands (c : BitVec 2) (f : InitMask) (o : Operands) :
    initInputs f (usedOperands (.skInit c f) o) = initInputs f o := by
  simp only [initInputs, usedOperands, optionalInput_ite_nil]

theorem updateBits_usedOperands (b : Bool) (o : Operands) :
    updateBits b (usedOperands (.skUpdate b) o) = updateBits b o := by
  cases b <;> rfl

theorem windowStart_usedOperands (e st : Bool) (o : Operands) :
    windowStart st (usedOperands (.skDigest e st) o) = windowStart st o := by
  cases st <;> rfl

theorem windowStop_usedOperands (e st : Bool) (o : Operands) (l : Nat) :
    windowStop e (usedOperands (.skDigest e st) o) l = windowStop e o l := by
  cases e <;> rfl

/-- A command on its used operands alone does what it does on all of them. -/
theorem exec_setPort_usedOperands (i : Instr) (s : State) :
    exec i (s.setPort (usedOperands i s.port)) = outcomeSetPort (usedOperands i s.port) (exec i s) := by
  cases i with
  | skInit c f =>
    simp only [exec, execSkInit, State.setPort_port, initInputs_usedOperands]
    cases Width.ofCode c with
    | none => rfl
    | some w =>
      simp only [outcomeSetPort_ite]
      rfl
  | skUpdate b =>
    simp only [exec, execSkUpdate, State.setPort_port, updateBits_usedOperands, outcomeSetPort_ite]
    rfl
  | skDigest e st =>
    simp only [exec, execSkDigest, State.setPort_port, windowStart_usedOperands, windowStop_usedOperands,
      outcomeSetPort_ite]
    rfl
  | tfSetup =>
    simp only [exec, execTfSetup, State.setPort_port, usedOperands]
    cases Width.ofKeyLength s.port.d0.length with
    | none => rfl
    | some w =>
      simp only [outcomeSetPort_ite]
      rfl
  | tfEncrypt =>
    simp only [exec, execTfEncrypt, outcomeSetPort_ite]
    rfl
  | tfDecrypt =>
    simp only [exec, execTfDecrypt, outcomeSetPort_ite]
    rfl
  | tfGetTweak =>
    simp only [exec, execTfGetTweak, outcomeSetPort_ite]
    rfl
  | tfSetTweak =>
    simp only [exec, execTfSetTweak, outcomeSetPort_ite]
    rfl

/-! ## The tweak as bytes (R98, R99) -/

theorem wordsOf_of_length_sixteen {d : List Byte} (h : d.length = 16) : wordsOf d = [le64 d 0, le64 d 1] := by
  rw [wordsOf, h]
  rfl

/-- The tweak of a 16-byte operand is answered as that operand. -/
theorem tweakBytes_of_tweakOf {c : CipherCtx} {d : List Byte} (ht : c.t = tweakOf d) (h : d.length = 16) :
    c.tweakBytes = d := by
  calc
    c.tweakBytes = bytesOf [le64 d 0, le64 d 1] := by rw [CipherCtx.tweakBytes, ht]; rfl
    _ = bytesOf (wordsOf d) := by rw [wordsOf_of_length_sixteen h]
    _ = d := bytesOf_wordsOf (by rw [h])

/-- On a configured context whose tweak is that of a 16-byte string, `TF_GET_TWEAK` answers the string. -/
theorem tfGetTweak_of_tweakOf {u t : State} {d : List Byte} (h : exec .tfGetTweak u = .next t)
    (hr : u.tf.ready = true) (ht : u.tf.t = tweakOf d) (hd : d.length = 16) : t.status = 0x00#8 ∧ t.rdata = d := by
  obtain ⟨hn, -⟩ | ⟨-, rfl⟩ := execTfGetTweak_cases h
  · rw [hr] at hn
    cases hn
  · exact ⟨rfl, tweakBytes_of_tweakOf ht hd⟩

/-! ## The statements about the commands -/

/-- Settles O14: only `SK_INIT` has `IllegalCommand` in its row, and only the reserved width code is ill-formed. -/
theorem statusesOfEachCommand : Obligations.StatusesOfEachCommand := by
  unfold Obligations.StatusesOfEachCommand
  exact fun i s t h => ⟨exec_status h, exec_illegalCommand_iff h⟩

/-- Settles O20: every command commutes with clearing the operands it does not use. -/
theorem unusedOperandsHaveNoEffect : Obligations.UnusedOperandsHaveNoEffect := by
  unfold Obligations.UnusedOperandsHaveNoEffect
  intro i s t h
  have hport := exec_setPort_usedOperands i s
  rw [h] at hport
  exact hport

/-- Settles O56: both writing commands leave the tweak of their operand in a configured context. -/
theorem tweakReadsBackAsWritten : Obligations.TweakReadsBackAsWritten := by
  unfold Obligations.TweakReadsBackAsWritten
  constructor
  · intro s u t hset hok hget
    obtain ⟨-, rfl⟩ | ⟨-, -, rfl⟩ | ⟨hr, hd, rfl⟩ := execTfSetTweak_cases hset
    · cases hok
    · cases hok
    · exact tfGetTweak_of_tweakOf hget hr rfl hd
  · intro s u t hset hok hget
    obtain ⟨-, rfl⟩ | ⟨w, -, hd, rfl⟩ := execTfSetup_cases hset
    · cases hok
    · exact tfGetTweak_of_tweakOf hget rfl rfl hd

end Machine

end Sys2Proof
end

section
/-! The Threefish cipher and its commands, for the family 40_threefish: each part of a round has an inverse, so
decryption undoes encryption and the other way round (R80 to R86); the key schedule word by word (R76 to R78); what
each command answers when its checks pass (R95 to R99); and the two contexts do not touch each other (R92). -/

namespace Sys2Proof.Machine

/-! ## Rotations and Mix (R7, R80, R81) -/

/-- A rotation by 1 to 63 takes bit `j` from `r` places below, around the low end. -/
theorem getLsbD_rotl64 (x : Word) {r j : Nat} (hr : 1 ≤ r) (hr' : r ≤ 63) (hj : j < 64) :
    (rotl64 x r).getLsbD j = x.getLsbD (if j < r then j + (64 - r) else j - r) := by
  rw [rotl64, BitVec.getLsbD_or, BitVec.getLsbD_shiftLeft, BitVec.getLsbD_ushiftRight]
  split
  next hlow => simp [hlow, Nat.add_comm]
  next hhigh =>
    have hout : 64 ≤ 64 - r + j := by omega
    simp [hhigh, hj, BitVec.getLsbD_of_ge x _ hout]

/-- `rotr64` undoes `rotl64`. -/
theorem rotr64_rotl64 (x : Word) {r : Nat} (hr : 1 ≤ r) (hr' : r ≤ 63) : rotr64 (rotl64 x r) r = x := by
  refine BitVec.eq_of_getLsbD_eq fun j hj => ?_
  rw [rotr64, getLsbD_rotl64 _ (by omega) (by omega) hj, getLsbD_rotl64 _ hr hr' (by split <;> omega)]
  congr 1
  split_ifs <;> omega

/-- `rotl64` undoes `rotr64`, which is a rotation by the other `64 - r` places. -/
theorem rotl64_rotr64 (x : Word) {r : Nat} (hr : 1 ≤ r) (hr' : r ≤ 63) : rotl64 (rotr64 x r) r = x := by
  have h := rotr64_rotl64 x (r := 64 - r) (by omega) (by omega)
  rwa [rotr64, Nat.sub_sub_self (by omega)] at h

theorem unmix_mix (x0 x1 : Word) {r : Nat} (hr : 1 ≤ r) (hr' : r ≤ 63) :
    unmix (mix x0 x1 r).1 (mix x0 x1 r).2 r = (x0, x1) := by
  simp [mix, unmix, rotr64_rotl64 x1 hr hr']

theorem mix_unmix (y0 y1 : Word) {r : Nat} (hr : 1 ≤ r) (hr' : r ≤ 63) :
    mix (unmix y0 y1 r).1 (unmix y0 y1 r).2 r = (y0, y1) := by
  simp [mix, unmix, rotl64_rotr64 _ hr hr']

/-! ## The parts of a round (R79, R82 to R85) -/

theorem unmixPairs_mixPairs {rs : List Nat} (h : ∀ r ∈ rs, 1 ≤ r ∧ r ≤ 63) (v : List Word) :
    unmixPairs rs (mixPairs rs v) = v := by
  fun_induction mixPairs rs v with
  | case1 r rs x0 x1 xs ih =>
    obtain ⟨hr, hr'⟩ := h r List.mem_cons_self
    rw [unmixPairs, unmix_mix x0 x1 hr hr', ih fun r hrs => h r (List.mem_cons_of_mem _ hrs)]
  | case2 rs xs hshort => rw [unmixPairs]; exact hshort

theorem mixPairs_unmixPairs {rs : List Nat} (h : ∀ r ∈ rs, 1 ≤ r ∧ r ≤ 63) (v : List Word) :
    mixPairs rs (unmixPairs rs v) = v := by
  fun_induction unmixPairs rs v with
  | case1 r rs y0 y1 ys ih =>
    obtain ⟨hr, hr'⟩ := h r List.mem_cons_self
    rw [mixPairs, mix_unmix y0 y1 hr hr', ih fun r hrs => h r (List.mem_cons_of_mem _ hrs)]
  | case2 rs ys hshort => rw [mixPairs]; exact hshort

/-- R87. -/
theorem rotations_range (w : Width) : ∀ row ∈ rotations w, ∀ r ∈ row, 4 ≤ r ∧ r ≤ 59 := by
  cases w <;> decide

/-- A round's row is a row of the table, so its amounts are amounts of a rotation. -/
theorem rotationRow_range (w : Width) (d : Nat) : ∀ r ∈ rotationRow w d, 1 ≤ r ∧ r ≤ 63 := by
  intro r hr
  have hrow : d % 8 < (rotations w).length := by
    have h : d % 8 < 8 := Nat.mod_lt d (by decide)
    cases w <;> exact h
  rw [rotationRow, List.getD_eq_getElem _ _ hrow] at hr
  have hrange := rotations_range w _ (List.getElem_mem hrow) r hr
  omega

theorem wordPermutationInv_wordPermutation (w : Width) :
    ∀ i < w.words, (wordPermutationInv w).getD ((wordPermutation w).getD i 0) 0 = i := by
  cases w <;> decide

theorem wordPermutation_wordPermutationInv (w : Width) :
    ∀ i < w.words, (wordPermutation w).getD ((wordPermutationInv w).getD i 0) 0 = i := by
  cases w <;> decide

theorem wordPermutation_lt (w : Width) : ∀ i < w.words, (wordPermutation w).getD i 0 < w.words := by
  cases w <;> decide

theorem wordPermutationInv_lt (w : Width) : ∀ i < w.words, (wordPermutationInv w).getD i 0 < w.words := by
  cases w <;> decide

theorem wordAt_permuteWords {p : List Nat} (f : List Word) {i : Nat} (h : i < p.length) :
    wordAt (permuteWords p f) i = wordAt f (p.getD i 0) := by
  rw [wordAt_of_lt (by simpa using h), List.getD_eq_getElem _ _ h]
  simp [permuteWords]

/-- Word `i` of `f` permuted by `p` and then by `q` is word `p[q[i]]`, so `q` undoes `p` when that is `i`. -/
theorem permuteWords_permuteWords {p q : List Nat} {f : List Word} (hq : q.length = f.length)
    (hlt : ∀ i < f.length, q.getD i 0 < p.length) (hpq : ∀ i < f.length, p.getD (q.getD i 0) 0 = i) :
    permuteWords q (permuteWords p f) = f := by
  refine eq_of_wordAt_eq (by simpa using hq) fun i hi => ?_
  rw [wordAt_permuteWords _ (hq ▸ hi), wordAt_permuteWords _ (hlt i hi), hpq i hi]

theorem permuteWords_inv_permuteWords {w : Width} {f : List Word} (h : f.length = w.words) :
    permuteWords (wordPermutationInv w) (permuteWords (wordPermutation w) f) = f :=
  permuteWords_permuteWords (by simp [h]) (by simpa [h] using wordPermutationInv_lt w)
    (by simpa only [h] using wordPermutation_wordPermutationInv w)

theorem permuteWords_permuteWords_inv {w : Width} {f : List Word} (h : f.length = w.words) :
    permuteWords (wordPermutation w) (permuteWords (wordPermutationInv w) f) = f :=
  permuteWords_permuteWords (by simp [h]) (by simpa [h] using wordPermutation_lt w)
    (by simpa only [h] using wordPermutationInv_wordPermutation w)

theorem subWords_addWords {v ks : List Word} (h : v.length = ks.length) : subWords (addWords v ks) ks = v :=
  List.ext_getElem (by simp [h]) fun i _ _ => by simp [subWords, addWords]

theorem addWords_subWords {v ks : List Word} (h : v.length = ks.length) : addWords (subWords v ks) ks = v :=
  List.ext_getElem (by simp [h]) fun i _ _ => by simp [subWords, addWords]

section
variable {w : Width} (k : List Word) (t : Vector Word 3) (d : Nat) {v : List Word}

theorem removeSubkey_injectSubkey (h : v.length = w.words) : removeSubkey w k t d (injectSubkey w k t d v) = v := by
  unfold removeSubkey injectSubkey
  split
  · exact subWords_addWords (by simpa using h)
  · rfl

theorem injectSubkey_removeSubkey (h : v.length = w.words) : injectSubkey w k t d (removeSubkey w k t d v) = v := by
  unfold removeSubkey injectSubkey
  split
  · exact addWords_subWords (by simpa using h)
  · rfl

theorem decryptRound_encryptRound (h : v.length = w.words) : decryptRound w k t d (encryptRound w k t v d) = v := by
  have hmixed : (mixPairs (rotationRow w d) (injectSubkey w k t d v)).length = w.words := by
    rw [length_mixPairs, length_injectSubkey w k t d v h]
  rw [decryptRound, encryptRound, permuteWords_inv_permuteWords hmixed,
    unmixPairs_mixPairs (rotationRow_range w d), removeSubkey_injectSubkey k t d h]

theorem encryptRound_decryptRound (h : v.length = w.words) : encryptRound w k t (decryptRound w k t d v) d = v := by
  have hunmixed : (unmixPairs (rotationRow w d) (permuteWords (wordPermutationInv w) v)).length = w.words := by
    simp
  rw [decryptRound, encryptRound, injectSubkey_removeSubkey k t d hunmixed,
    mixPairs_unmixPairs (rotationRow_range w d), permuteWords_permuteWords_inv h]

/-! ## Encryption and decryption (R84 to R86) -/

/-- Decryption takes the rounds in the reverse order: its last round undoes the first of encryption. -/
theorem decryptRounds_encryptRounds (ds : List Nat) (h : v.length = w.words) :
    ds.foldr (decryptRound w k t) (ds.foldl (encryptRound w k t) v) = v := by
  induction ds generalizing v with
  | nil => rfl
  | cons d ds ih =>
    rw [List.foldl_cons, List.foldr_cons, ih (length_encryptRound w k t v d), decryptRound_encryptRound k t d h]

theorem encryptRounds_decryptRounds (ds : List Nat) (h : v.length = w.words) :
    ds.foldl (encryptRound w k t) (ds.foldr (decryptRound w k t) v) = v := by
  induction ds with
  | nil => rfl
  | cons d ds ih =>
    rw [List.foldl_cons, List.foldr_cons, encryptRound_decryptRound k t d (length_decryptRounds w k t ds v h), ih]

theorem threefishDecrypt_threefishEncrypt (h : v.length = w.words) :
    threefishDecrypt w k t (threefishEncrypt w k t v) = v := by
  rw [threefishDecrypt, threefishEncrypt, subWords_addWords (by simp [length_encryptRounds w k t _ v h]),
    decryptRounds_encryptRounds k t _ h]

theorem threefishEncrypt_threefishDecrypt (h : v.length = w.words) :
    threefishEncrypt w k t (threefishDecrypt w k t v) = v := by
  rw [threefishDecrypt, threefishEncrypt, encryptRounds_decryptRounds k t _ (by simp [h]),
    addWords_subWords (by simpa using h)]

end

/-! ## The key schedule (R76 to R78) -/

/-- The XOR of the words of an extended key is the parity constant: the added word cancels the others. -/
theorem foldl_xor_extendKey (k : List Word) : (extendKey k).foldl (· ^^^ ·) 0 = c240 := by
  have hparity : k.foldl (· ^^^ ·) c240 = c240 ^^^ k.foldl (· ^^^ ·) 0 := by
    simpa using List.foldl_assoc (op := (· ^^^ · : Word → Word → Word)) (l := k) (a₁ := c240) (a₂ := 0)
  rw [extendKey, List.foldl_append, hparity, List.foldl_cons, List.foldl_nil, BitVec.xor_comm, BitVec.xor_assoc,
    BitVec.xor_self, BitVec.xor_zero]

theorem wordAt_subkey (w : Width) (k : List Word) (t : Vector Word 3) (s : Nat) {i : Nat} (h : i < w.words) :
    wordAt (subkey w k t s) i = wordAt k ((s + i) % (w.words + 1)) + subkeyAddend w t s i := by
  rw [wordAt_of_lt (by simpa using h)]
  simp [subkey]

theorem tweakWord_eq_getD (t : Vector Word 3) (s : Nat) : tweakWord t s = t.toList.getD (s % 3) 0 := by
  have h : s % 3 < 3 := Nat.mod_lt s (by decide)
  rw [List.getD_eq_getElem _ _ (by simpa using h)]
  simp [tweakWord]

section
variable (w : Width) (t : Vector Word 3) (s : Nat)

theorem subkeyAddend_of_lt {i : Nat} (h : i < w.words - 3) : subkeyAddend w t s i = 0 := by
  rw [subkeyAddend, if_neg (by omega), if_neg (by omega), if_neg (by omega)]

theorem subkeyAddend_sub_three : subkeyAddend w t s (w.words - 3) = tweakWord t s := if_pos rfl

theorem subkeyAddend_sub_two : subkeyAddend w t s (w.words - 2) = tweakWord t (s + 1) := by
  have h := w.words_cases
  rw [subkeyAddend, if_neg (by omega), if_pos rfl]

theorem subkeyAddend_sub_one : subkeyAddend w t s (w.words - 1) = BitVec.ofNat 64 s := by
  have h := w.words_cases
  rw [subkeyAddend, if_neg (by omega), if_neg (by omega), if_pos rfl]

end

/-! ## The checks of a command (R143, R147, R148) -/

/-- A command that finds its context unconfigured raises `NotConfigured`. -/
theorem exec_of_unconfigured {i : Instr} {s : State} (h : unconfigured i s) :
    exec i s = .next (s.fail .notConfigured) := by
  cases i with
  | skInit c f => cases h
  | skUpdate b => exact if_pos h
  | skDigest e st => exact if_pos h
  | tfSetup => cases h
  | tfEncrypt => exact if_pos h
  | tfDecrypt => exact if_pos h
  | tfGetTweak => exact if_pos h
  | tfSetTweak => exact if_pos h

/-- A Threefish command that finds its context configured and its operands of a wrong length raises
`InvalidArgument`. -/
theorem exec_of_invalidArgumentCause {i : Instr} {s : State} (hi : isThreefish i = true) (hr : ¬ unconfigured i s)
    (h : invalidArgumentCause i s) : exec i s = .next (s.fail .invalidArgument) := by
  cases i with
  | skInit c f => cases hi
  | skUpdate b => cases hi
  | skDigest e st => cases hi
  | tfSetup =>
    show execTfSetup s = _
    unfold execTfSetup
    cases hw : Width.ofKeyLength s.port.d0.length with
    | none => rfl
    | some w =>
      have hkey : ¬ s.port.d0.length ∉ [32, 64, 128] := fun hn => by
        simp [(Width.ofKeyLength_eq_none_iff _).2 hn] at hw
      exact if_pos (h.resolve_left hkey)
  | tfEncrypt => exact (if_neg hr).trans (if_pos h)
  | tfDecrypt => exact (if_neg hr).trans (if_pos h)
  | tfGetTweak => cases h
  | tfSetTweak => exact (if_neg hr).trans (if_pos h)

/-! ## The commands when their checks pass (R95 to R99) -/

section
variable {s : State}

theorem exec_tfSetup_of_lengths {w : Width} (hkey : s.port.d0.length = w.bytes) (htweak : s.port.d1.length = 16) :
    exec .tfSetup s = .next ((s.setTf (freshCipher w s.port.d0 s.port.d1)).respond []) := by
  simp [exec, execTfSetup, (Width.ofKeyLength_eq_some _ _).2 hkey, htweak]

variable (hr : s.tf.ready = true)
include hr

theorem exec_tfEncrypt_of_block (hd : s.port.d0.length = s.tf.nb.bytes) :
    exec .tfEncrypt s = .next (s.respond (s.tf.encrypt s.port.d0)) := by
  simp [exec, execTfEncrypt, hr, hd]

theorem exec_tfDecrypt_of_block (hd : s.port.d0.length = s.tf.nb.bytes) :
    exec .tfDecrypt s = .next (s.respond (s.tf.decrypt s.port.d0)) := by
  simp [exec, execTfDecrypt, hr, hd]

theorem exec_tfGetTweak_of_configured : exec .tfGetTweak s = .next (s.respond s.tf.tweakBytes) := by
  simp [exec, execTfGetTweak, hr]

theorem exec_tfSetTweak_of_tweak (hd : s.port.d0.length = 16) :
    exec .tfSetTweak s = .next ((s.setTf (s.tf.setTweak s.port.d0)).respond []) := by
  simp [exec, execTfSetTweak, hr, hd]

end

/-! ## Blocks as bytes (R96, R97) -/

/-- A ciphertext has the length of its block. -/
theorem length_encrypt {c : CipherCtx} {block : List Byte} (h : block.length = c.nb.bytes) :
    (c.encrypt block).length = c.nb.bytes := by
  rw [CipherCtx.encrypt, length_bytesOf, length_threefishEncrypt _ _ _ _ (length_wordsOf_of_bytes h), Width.bytes]

theorem decrypt_encrypt {c : CipherCtx} {block : List Byte} (h : block.length = c.nb.bytes) :
    c.decrypt (c.encrypt block) = block := by
  rw [CipherCtx.decrypt, CipherCtx.encrypt, wordsOf_bytesOf,
    threefishDecrypt_threefishEncrypt _ _ (length_wordsOf_of_bytes h), bytesOf_wordsOf]
  rw [h, Width.bytes]
  exact Nat.mul_mod_right 8 _

/-- The context made of the key `Bytes(X)` and the tweak `Bytes(T0, T1)` is keyed and tweaked as the engine's cipher
is (R88). -/
theorem encrypt_freshCipher_bytesOf (w : Width) (x : List Word) (t0 t1 : Word) (block : List Byte) :
    (freshCipher w (bytesOf x) (bytesOf [t0, t1])).encrypt block =
      bytesOf (engineCipher w x t0 t1 (wordsOf block)) := by
  have htweak : tweakOf (bytesOf [t0, t1]) = extendTweak t0 t1 := by
    have hwords := (wordsOf_of_length_sixteen (d := bytesOf [t0, t1]) rfl).symm.trans (wordsOf_bytesOf _)
    obtain ⟨h0, h1⟩ : le64 (bytesOf [t0, t1]) 0 = t0 ∧ le64 (bytesOf [t0, t1]) 1 = t1 := by simpa using hwords
    rw [tweakOf, h0, h1]
  rw [CipherCtx.encrypt, freshCipher, wordsOf_bytesOf, htweak, engineCipher]

/-! ## The two contexts (R92)

A command that does not use a context commutes with every replacement of it. -/

/-- The outcome with a change made to its next state. -/
def outcomeMap (g : State → State) : Host.Outcome State Fault Refusal → Host.Outcome State Fault Refusal
  | .next s => .next (g s)
  | .fault r => .fault r
  | .refused r => .refused r

theorem outcomeMap_ite (g : State → State) (p : Prop) [Decidable p] (x y : Host.Outcome State Fault Refusal) :
    outcomeMap g (if p then x else y) = if p then outcomeMap g x else outcomeMap g y :=
  apply_ite (outcomeMap g) p x y

theorem exec_setSk_of_isThreefish {i : Instr} (hi : isThreefish i = true) (e : EngineCtx) (s : State) :
    exec i (s.setSk e) = outcomeMap (State.setSk e) (exec i s) := by
  cases i with
  | skInit c f => cases hi
  | skUpdate b => cases hi
  | skDigest e st => cases hi
  | tfSetup =>
    simp only [exec, execTfSetup, State.setSk_port]
    cases Width.ofKeyLength s.port.d0.length with
    | none => rfl
    | some w =>
      simp only [outcomeMap_ite]
      rfl
  | tfEncrypt =>
    simp only [exec, execTfEncrypt, outcomeMap_ite]
    rfl
  | tfDecrypt =>
    simp only [exec, execTfDecrypt, outcomeMap_ite]
    rfl
  | tfGetTweak =>
    simp only [exec, execTfGetTweak, outcomeMap_ite]
    rfl
  | tfSetTweak =>
    simp only [exec, execTfSetTweak, outcomeMap_ite]
    rfl

theorem exec_setTf_of_not_isThreefish {i : Instr} (hi : isThreefish i = false) (c : CipherCtx) (s : State) :
    exec i (s.setTf c) = outcomeMap (State.setTf c) (exec i s) := by
  cases i with
  | skInit wcode f =>
    simp only [exec, execSkInit]
    cases Width.ofCode wcode with
    | none => rfl
    | some w =>
      simp only [outcomeMap_ite]
      rfl
  | skUpdate b =>
    simp only [exec, execSkUpdate, outcomeMap_ite]
    rfl
  | skDigest e st =>
    simp only [exec, execSkDigest, outcomeMap_ite]
    rfl
  | tfSetup => cases hi
  | tfEncrypt => cases hi
  | tfDecrypt => cases hi
  | tfGetTweak => cases hi
  | tfSetTweak => cases hi

/-! ## The statements -/

/-- Settles O19: each command commutes with every replacement of the other context. Replacing that context by itself
changes nothing, so the command leaves it as it was. -/
theorem contextsAreIndependent : Obligations.ContextsAreIndependent := by
  unfold Obligations.ContextsAreIndependent
  refine ⟨fun i s t hi h => ?_, fun i s t hi h => ?_⟩
  · have hreplace (e : EngineCtx) : exec i (s.setSk e) = .next (t.setSk e) := by
      rw [exec_setSk_of_isThreefish hi, h, outcomeMap]
    have hself : t = t.setSk s.sk := Host.Outcome.next.inj (h.symm.trans (hreplace s.sk))
    exact ⟨by rw [hself, State.setSk_sk], hreplace⟩
  · have hreplace (c : CipherCtx) : exec i (s.setTf c) = .next (t.setTf c) := by
      rw [exec_setTf_of_not_isThreefish hi, h, outcomeMap]
    have hself : t = t.setTf s.tf := Host.Outcome.next.inj (h.symm.trans (hreplace s.tf))
    exact ⟨by rw [hself, State.setTf_tf], hreplace⟩

/-- Settles O26: `TF_SETUP` makes the engine's cipher of the bytes of its key and tweak, and an increment of 0 leaves
the position of the block processor. -/
theorem standaloneCipherIsTheEngines : Obligations.StandaloneCipherIsTheEngines := by
  unfold Obligations.StandaloneCipherIsTheEngines
  intro w x t0 t1 block s u t hx hblock hsetup hencrypt
  rw [exec_tfSetup_of_lengths (w := w) (by simp [hx, Width.bytes]) rfl] at hsetup
  cases hsetup
  rw [exec_tfEncrypt_of_block rfl hblock] at hencrypt
  cases hencrypt
  refine ⟨rfl, ?_⟩
  rw [processBlocks_one, ← hblock, List.take_length, processBlock_x, BitVec.add_zero, State.respond_rdata,
    State.respond_tf, State.setTf_tf, encrypt_freshCipher_bytesOf, wordsOf_bytesOf]

/-- Settles O44: every part of a round is undone, in the reverse order. -/
theorem decryptInvertsEncrypt : Obligations.DecryptInvertsEncrypt := by
  unfold Obligations.DecryptInvertsEncrypt
  exact fun w k t p => threefishDecrypt_threefishEncrypt k t

/-- Settles O45: every part of a round undoes its inverse. -/
theorem encryptInvertsDecrypt : Obligations.EncryptInvertsDecrypt := by
  unfold Obligations.EncryptInvertsDecrypt
  exact fun w k t c => threefishEncrypt_threefishDecrypt k t

/-- Settles O46: the ciphertext is a block of the same length, and its decryption the block. -/
theorem encryptThenDecryptReturnsTheBlock : Obligations.EncryptThenDecryptReturnsTheBlock := by
  unfold Obligations.EncryptThenDecryptReturnsTheBlock
  intro s hr hd
  exact ⟨_, _, exec_tfEncrypt_of_block hr hd, rfl, exec_tfDecrypt_of_block hr (length_encrypt hd), rfl,
    decrypt_encrypt hd⟩

/-- Settles O48: the rotations of `Mix` and `Unmix` cancel, and the tables are as R73 to R75, R82 and R83 give them. -/
theorem roundPartsAreInvertible : Obligations.RoundPartsAreInvertible := by
  unfold Obligations.RoundPartsAreInvertible
  exact ⟨fun x0 x1 r => unmix_mix x0 x1, wordPermutationInv_wordPermutation, rotations_range⟩

/-- Settles O49: the last three words have an addend of their own, and the words below them none. -/
theorem subkeyWords : Obligations.SubkeyWords := by
  unfold Obligations.SubkeyWords
  intro w k t s
  have hw := w.words_cases
  have hword (i : Nat) (hi : i < w.words) :
      (subkey w k t s).getD i 0 = k.getD ((s + i) % (w.words + 1)) 0 + subkeyAddend w t s i := wordAt_subkey w k t s hi
  refine ⟨length_subkey w k t s, fun i hi => ?_, ?_, ?_, ?_⟩
  · rw [hword i (by omega), subkeyAddend_of_lt w t s hi]
    exact BitVec.add_zero _
  · rw [hword _ (by omega), subkeyAddend_sub_three, tweakWord_eq_getD]
  · rw [hword _ (by omega), subkeyAddend_sub_two, tweakWord_eq_getD]
  · rw [hword _ (by omega), subkeyAddend_sub_one]

/-- Settles O50: the word added is the XOR of the key words and the constant. -/
theorem extendedKeyParity : Obligations.ExtendedKeyParity := by
  unfold Obligations.ExtendedKeyParity
  exact fun k => ⟨length_extendKey k, List.take_left' rfl, foldl_xor_extendKey k⟩

/-- Settles O51: the three legal key lengths are the three widths in bytes. -/
theorem tfSetupWritesTheContext : Obligations.TfSetupWritesTheContext := by
  unfold Obligations.TfSetupWritesTheContext
  refine ⟨fun w s hkey htweak => ?_, fun s h => ?_⟩
  · have hlength : s.port.d0.length = w.bytes := by
      cases w <;> simpa [Width.bytes, Width.words] using hkey
    exact exec_tfSetup_of_lengths hlength htweak
  · exact exec_of_invalidArgumentCause rfl id h

/-- Settles O52: the answer, and the two checks before it. -/
theorem tfEncryptAnswersTheCiphertext : Obligations.TfEncryptAnswersTheCiphertext := by
  unfold Obligations.TfEncryptAnswersTheCiphertext
  intro s
  refine ⟨exec_tfEncrypt_of_block, exec_of_unconfigured (i := .tfEncrypt), fun hr => ?_⟩
  exact exec_of_invalidArgumentCause (i := .tfEncrypt) rfl (by simp [unconfigured, hr])

/-- Settles O53: the answer, and the two checks before it. -/
theorem tfDecryptAnswersThePlaintext : Obligations.TfDecryptAnswersThePlaintext := by
  unfold Obligations.TfDecryptAnswersThePlaintext
  intro s
  refine ⟨exec_tfDecrypt_of_block, exec_of_unconfigured (i := .tfDecrypt), fun hr => ?_⟩
  exact exec_of_invalidArgumentCause (i := .tfDecrypt) rfl (by simp [unconfigured, hr])

/-- Settles O54: the two words answered take eight bytes each. -/
theorem tfGetTweakAnswersTheTweak : Obligations.TfGetTweakAnswersTheTweak := by
  unfold Obligations.TfGetTweakAnswersTheTweak
  intro s
  exact ⟨fun hr => ⟨exec_tfGetTweak_of_configured hr, length_bytesOf _⟩, exec_of_unconfigured (i := .tfGetTweak)⟩

/-- Settles O55: the write, and the two checks before it. -/
theorem tfSetTweakReplacesTheTweak : Obligations.TfSetTweakReplacesTheTweak := by
  unfold Obligations.TfSetTweakReplacesTheTweak
  intro s
  refine ⟨exec_tfSetTweak_of_tweak, exec_of_unconfigured (i := .tfSetTweak), fun hr => ?_⟩
  exact exec_of_invalidArgumentCause (i := .tfSetTweak) rfl (by simp [unconfigured, hr])

end Sys2Proof.Machine
end

section
/-! The block processor in batches, UBI as its last block over the blocks before it, and the message path as the same
batches (R106 to R110, R114, R124), for the family 41_ubi. -/

namespace Sys2Proof.Machine

/-! ## Batches of blocks (R106) -/

/-- A batch is its first blocks, then the others on what they leave. -/
theorem processBlocks_add (w : Width) (c : Chain) (d : List Byte) (m n inc : Nat) :
    processBlocks w c d (m + n) inc =
      processBlocks w (processBlocks w c d m inc) (d.drop (m * w.bytes)) n inc := by
  induction m generalizing c d with
  | zero => simp
  | succ m ih =>
    rw [Nat.succ_add, processBlocks_succ, processBlocks_succ, ih, List.drop_drop, Nat.succ_mul,
      Nat.add_comm w.bytes]

/-- A batch with one block more ends with that block. -/
theorem processBlocks_succ_last (w : Width) (c : Chain) (d : List Byte) (n inc : Nat) :
    processBlocks w c d (n + 1) inc = processBlock w (processBlocks w c d n inc) (chunkAt w d n) inc := by
  rw [processBlocks_add, processBlocks_one, chunkAt]

theorem processBlocks_take (w : Width) (c : Chain) {d : List Byte} {n : Nat} (inc : Nat)
    (h : n * w.bytes ≤ d.length) : processBlocks w c (d.take (n * w.bytes)) n inc = processBlocks w c d n inc := by
  rw [← processBlocks_append w c _ (d.drop (n * w.bytes)) n inc (by simpa using h), List.take_append_drop]

/-- Bytes after the blocks a batch processes do not matter. -/
theorem processBlocks_append_of_le (w : Width) (c : Chain) {d : List Byte} (e : List Byte) {n : Nat} (inc : Nat)
    (h : n * w.bytes ≤ d.length) : processBlocks w c (d ++ e) n inc = processBlocks w c d n inc := by
  rw [← processBlocks_take w c inc h, ← List.take_append_of_le_length (l₂ := e) h,
    processBlocks_take w c inc (by simp; omega)]

/-! ## The blocks before the last (R108, R124) -/

/-- The blocks of a byte string that at least one byte follows: those lazy dispatch processes (R124), and those UBI
processes without Final (R108). -/
def blocksBeforeLast (w : Width) (d : List Byte) : Nat := (d.length - 1) / w.bytes

theorem blocksBeforeLast_mul_le (w : Width) (d : List Byte) : blocksBeforeLast w d * w.bytes ≤ d.length :=
  (Nat.div_mul_le_self _ _).trans (Nat.sub_le _ _)

/-- At most a block is left after them. -/
theorem length_drop_blocksBeforeLast_le (w : Width) (d : List Byte) :
    (d.drop (blocksBeforeLast w d * w.bytes)).length ≤ w.bytes := by
  have hlt : d.length - 1 < (blocksBeforeLast w d + 1) * w.bytes :=
    (Nat.div_lt_iff_lt_mul w.bytes_pos).1 (Nat.lt_succ_self _)
  rw [Nat.succ_mul] at hlt
  rw [List.length_drop]
  omega

theorem blocksBeforeLast_le_append (w : Width) (d e : List Byte) :
    blocksBeforeLast w d ≤ blocksBeforeLast w (d ++ e) :=
  Nat.div_le_div_right (by simp; omega)

theorem blocksBeforeLast_eq_zero {w : Width} {d : List Byte} (h : d.length ≤ w.bytes) : blocksBeforeLast w d = 0 :=
  Nat.div_eq_of_lt (by have := w.bytes_pos; omega)

theorem one_le_blocksBeforeLast {w : Width} {d : List Byte} (h : w.bytes < d.length) : 1 ≤ blocksBeforeLast w d :=
  (Nat.one_le_div_iff w.bytes_pos).2 (by omega)

/-- Once `k` of them are processed, the others remain. -/
theorem blocksBeforeLast_drop {w : Width} {d : List Byte} {k : Nat} :
    blocksBeforeLast w (d.drop (k * w.bytes)) = blocksBeforeLast w d - k := by
  rw [blocksBeforeLast, blocksBeforeLast, List.length_drop, Nat.sub_right_comm, Nat.mul_comm, Nat.sub_mul_div]

theorem ubiBlocks_eq (w : Width) (m : List Byte) : ubiBlocks w m = blocksBeforeLast w m + 1 := by
  unfold ubiBlocks blocksBeforeLast
  split_ifs with h
  · simp [h]
  · rw [← Nat.add_div_right _ w.bytes_pos]
    congr 1
    omega

/-! ## UBI (R108 to R110) -/

/-- Final set, then a block padded with zeros that counts its real bytes: the last turn of UBI (R108), and
finalization when no partial byte is pending (R134). -/
def processLast (w : Width) (c : Chain) (r : List Byte) : Chain :=
  processBlock w { c with t1 := setFinal c.t1 } (padBlock w r) r.length

theorem processBlocks_padBlock (w : Width) (c : Chain) {r : List Byte} (inc : Nat) (h : r.length ≤ w.bytes) :
    processBlocks w c (padBlock w r) 1 inc = processBlock w c (padBlock w r) inc := by
  rw [processBlocks_one, List.take_of_length_le (length_padBlock w r h).le]

/-- A turn before the last takes a whole block, without Final. -/
theorem ubiTurn_of_lt {w : Width} {m : List Byte} {n : Nat} (c : Chain) (h : n < blocksBeforeLast w m) :
    ubiTurn w m c n = processBlock w c (chunkAt w m n) w.bytes := by
  have hle : (n + 1) * w.bytes ≤ m.length := (Nat.mul_le_mul_right _ h).trans (blocksBeforeLast_mul_le w m)
  have hlen : (chunkAt w m n).length = w.bytes := by
    rw [Nat.succ_mul] at hle
    simp [chunkAt]
    omega
  have hpad : padBlock w (chunkAt w m n) = chunkAt w m n := by simp [padBlock, hlen, zeros]
  rw [ubiTurn, if_neg (by rw [ubiBlocks_eq]; omega), processBlocks_padBlock _ _ _ hlen.le, hpad, hlen]

/-- The last turn takes what the others leave. -/
theorem ubiTurn_last (w : Width) (m : List Byte) (c : Chain) :
    ubiTurn w m c (blocksBeforeLast w m) = processLast w c (m.drop (blocksBeforeLast w m * w.bytes)) := by
  have hchunk : chunkAt w m (blocksBeforeLast w m) = m.drop (blocksBeforeLast w m * w.bytes) :=
    List.take_of_length_le (length_drop_blocksBeforeLast_le w m)
  rw [ubiTurn, if_pos (by rw [ubiBlocks_eq]; rfl), processBlocks_padBlock _ _ _ (length_chunkAt_le w m _), hchunk,
    processLast]

/-- The turns before the last are one batch. -/
theorem foldl_ubiTurn {w : Width} {m : List Byte} (c : Chain) {n : Nat} (h : n ≤ blocksBeforeLast w m) :
    (List.range n).foldl (ubiTurn w m) c = processBlocks w c m n w.bytes := by
  induction n with
  | zero => rfl
  | succ n ih =>
    rw [List.range_succ, List.foldl_append, ih (by omega), List.foldl_cons, List.foldl_nil, ubiTurn_of_lt _ h,
      processBlocks_succ_last]

/-- UBI is a batch of whole blocks, then the last block. -/
theorem ubiChain_eq (w : Width) (g : List Word) (m : List Byte) (ty : BlockType) :
    ubiChain w g m ty =
      processLast w (processBlocks w { x := g, t0 := 0, t1 := startFlags ty } m (blocksBeforeLast w m) w.bytes)
        (m.drop (blocksBeforeLast w m * w.bytes)) := by
  rw [ubiChain, ubiBlocks_eq, List.range_succ, List.foldl_append, foldl_ubiTurn _ le_rfl, List.foldl_cons,
    List.foldl_nil, ubiTurn_last]

theorem clearFirst_setFinal (t1 : Word) : clearFirst (setFinal t1) = setFinal (clearFirst t1) := by
  have hfinal : finalFlag &&& ~~~firstFlag = finalFlag := by decide
  rw [clearFirst, setFinal, BitVec.and_or_distrib_right, hfinal, clearFirst, setFinal]

theorem clearFirst_startFlags (ty : BlockType) : clearFirst (startFlags ty) = typeFlags ty := by
  cases ty <;> decide

/-- First is cleared by the end of a batch and one block more, whether the batch is empty or not. -/
theorem clearFirst_processBlocks_t1 (w : Width) (c : Chain) (d : List Byte) (n inc : Nat) :
    clearFirst (processBlocks w c d n inc).t1 = clearFirst c.t1 := by
  cases n with
  | zero => rfl
  | succ n => rw [processBlocks_t1 _ _ _ _ _ n.succ_ne_zero, clearFirst_clearFirst]

/-! ## The update engine (R124, R127) -/

theorem absorbBlocks_eq (w : Width) (c : Chain) (d : List Byte) :
    absorbBlocks w c d =
      (processBlocks w c d (blocksBeforeLast w d) w.bytes, d.drop (blocksBeforeLast w d * w.bytes)) := by
  unfold absorbBlocks
  split_ifs with h
  · rw [← blocksBeforeLast, processBlocks_take _ _ _ (blocksBeforeLast_mul_le w d)]
  · simp [blocksBeforeLast_eq_zero (Nat.le_of_not_lt h)]

/-- Lazy dispatch may stop after any of its blocks and go on from there. -/
theorem absorbBlocks_drop {w : Width} (c : Chain) {d : List Byte} {k : Nat} (h : k ≤ blocksBeforeLast w d) :
    absorbBlocks w (processBlocks w c d k w.bytes) (d.drop (k * w.bytes)) = absorbBlocks w c d := by
  rw [absorbBlocks_eq, absorbBlocks_eq, blocksBeforeLast_drop, ← processBlocks_add, List.drop_drop, ← Nat.add_mul,
    Nat.add_sub_cancel' h]

/-- `Absorb` dispatches the buffered and the new bytes as one string. -/
theorem absorbInto_eq_absorbBlocks {w : Width} (c : Chain) {buf : List Byte} (m : List Byte)
    (h : buf.length ≤ w.bytes) : absorbInto w c buf m = absorbBlocks w c (buf ++ m) := by
  unfold absorbInto
  split_ifs with hlong hbuf
  · have hfirst : processBlocks w c (buf ++ m.take (w.bytes - buf.length)) 1 w.bytes =
        processBlocks w c (buf ++ m) 1 w.bytes := by
      rw [← processBlocks_take w c (d := buf ++ m) w.bytes (by simp; omega), Nat.one_mul, List.take_append,
        List.take_of_length_le h]
    have hrest : m.drop (w.bytes - buf.length) = (buf ++ m).drop (1 * w.bytes) := by
      rw [Nat.one_mul, List.drop_append, List.drop_of_length_le h, List.nil_append]
    rw [hfirst, hrest, absorbBlocks_drop c (one_le_blocksBeforeLast (by simp; omega))]
  · rw [List.eq_nil_of_length_eq_zero (Nat.eq_zero_of_not_pos hbuf), List.nil_append]
  · rw [absorbBlocks, if_neg (by simp; omega)]

/-- What lazy dispatch keeps fits the buffer. -/
theorem length_absorbBlocks_snd_le (w : Width) (c : Chain) (d : List Byte) :
    (absorbBlocks w c d).2.length ≤ w.bytes := by
  rw [absorbBlocks_eq]
  exact length_drop_blocksBeforeLast_le w d

/-- Lazy dispatch of a string, then of more bytes after what it kept, is that of the joined string. -/
theorem absorbBlocks_absorbBlocks (w : Width) (c : Chain) (d e : List Byte) :
    absorbBlocks w (absorbBlocks w c d).1 ((absorbBlocks w c d).2 ++ e) = absorbBlocks w c (d ++ e) := by
  have hle := blocksBeforeLast_mul_le w d
  rw [absorbBlocks_eq w c d, ← processBlocks_append_of_le w c e _ hle, ← List.drop_append_of_le_length hle,
    absorbBlocks_drop c (blocksBeforeLast_le_append w d e)]

/-- Two calls of `Absorb` are one call with the joined bytes. -/
theorem absorb_absorb {e : EngineCtx} (m n : List Byte) (h : e.buf.length ≤ e.nb.bytes) :
    absorb n (absorb m e) = absorb (m ++ n) e := by
  have hjoin : absorbInto e.nb (absorb m e).chain (absorb m e).buf n = absorbInto e.nb e.chain e.buf (m ++ n) := by
    rw [absorb_chain, absorb_buf, absorbInto_eq_absorbBlocks _ m h,
      absorbInto_eq_absorbBlocks _ n (length_absorbBlocks_snd_le _ _ _), absorbBlocks_absorbBlocks,
      absorbInto_eq_absorbBlocks _ _ h, List.append_assoc]
  rw [absorb, absorb_nb, hjoin]
  rfl

/-- `n` bytes of bits take `n` bytes. -/
@[simp] theorem bytesForBits_mul_eight (n : Nat) : bytesForBits (8 * n) = n := by
  unfold bytesForBits
  omega

/-- An update of whole bytes absorbs them and counts them; no partial byte comes to be held. -/
theorem alignedUpdate_whole (m : List Byte) (e : EngineCtx) :
    alignedUpdate m (8 * m.length) e =
      { absorb m e with bytesHashed := e.bytesHashed + BitVec.ofNat 64 m.length } := by
  simp [alignedUpdate, updateBytes, updateMissing, absorb]

theorem alignedUpdate_alignedUpdate_whole {e : EngineCtx} (m n : List Byte) (h : e.buf.length ≤ e.nb.bytes) :
    alignedUpdate n (8 * n.length) (alignedUpdate m (8 * m.length) e) =
      alignedUpdate (m ++ n) (8 * (m ++ n).length) e := by
  rw [alignedUpdate_whole, alignedUpdate_whole, alignedUpdate_whole, ← absorb_absorb m n h, List.length_append,
    BitVec.ofNat_add, ← BitVec.add_assoc]
  rfl

/-- An update of the whole operand, when no partial byte is held and the counter has room, completes. -/
theorem exec_skUpdate_withBytes {s : State} {m : List Byte} (hready : s.sk.ready = true) (hwhole : s.sk.missing = 0)
    (hroom : s.sk.bytesHashed.toNat + m.length < 2 ^ 64 - 1) :
    exec (.skUpdate false) (s.withBytes m) =
      .next (((s.withBytes m).setSk (alignedUpdate m (8 * m.length) s.sk)).respond []) := by
  have hcount : ¬ s.sk.bytesHashed.toNat + bytesForBits (8 * m.length) ≥ 2 ^ 64 - 1 := by simpa using hroom
  simp only [exec, execSkUpdate, State.withBytes, updateBits, hready, hwhole]
  rw [if_neg (by simp), if_neg (by simp), if_neg (by simp)]
  exact if_neg hcount

/-- Finalization processes the buffer as the last block. -/
theorem rootChain_of_whole {e : EngineCtx} (hwhole : e.missing = 0) (h : e.buf.length ≤ e.nb.bytes) :
    rootChain e = (processLast e.nb e.chain e.buf).x := by
  rw [rootChain, processBlocks_padBlock _ _ _ h, finalizeFlags, if_neg (not_not_intro hwhole)]
  rfl

/-- Finalization after an update of whole bytes: lazy dispatch, then the last block. -/
theorem rootChain_alignedUpdate_whole {e : EngineCtx} (m : List Byte) (hwhole : e.missing = 0)
    (h : e.buf.length ≤ e.nb.bytes) :
    rootChain (alignedUpdate m (8 * m.length) e) =
      (processLast e.nb (absorbBlocks e.nb e.chain (e.buf ++ m)).1 (absorbBlocks e.nb e.chain (e.buf ++ m)).2).x := by
  have hinto := absorbInto_eq_absorbBlocks e.chain m h
  have hbuf : (absorb m e).buf.length ≤ (absorb m e).nb.bytes := by
    rw [absorb_buf, absorb_nb, hinto]
    exact length_absorbBlocks_snd_le _ _ _
  rw [← hinto, ← absorb_chain, ← absorb_buf, alignedUpdate_whole]
  exact rootChain_of_whole (e := absorb m e) hwhole hbuf

/-! ## The statements -/

/-- Settles O24: the batch splits after its first `m` blocks, which are those of `d`. -/
theorem batchedBlocksEqualSuccessiveCalls : Obligations.BatchedBlocksEqualSuccessiveCalls := by
  unfold Obligations.BatchedBlocksEqualSuccessiveCalls
  intro w c d e m n inc hd _
  rw [processBlocks_add, processBlocks_append _ _ _ _ _ _ hd, ← hd, List.drop_left]

/-- Settles O25: the whole blocks and the rest add up to the input, and the last block leaves Final set. -/
theorem ubiEndsAtTheInputLength : Obligations.UbiEndsAtTheInputLength := by
  unfold Obligations.UbiEndsAtTheInputLength
  intro w g m ty
  rw [ubiChain_eq, processLast]
  refine ⟨?_, ?_⟩
  · simp only [processBlock_t0, processBlocks_t0]
    rw [zero_add, ← BitVec.ofNat_add, List.length_drop, Nat.add_sub_cancel' (blocksBeforeLast_mul_le w m)]
  · rw [processBlock_t1, clearFirst_setFinal, clearFirst_processBlocks_t1, clearFirst_startFlags, setFinal,
      BitVec.or_comm]
    rfl

/-- Settles O35: all three updates take the aligned path, on which two updates join. -/
theorem splitUpdatesEqualOneUpdate : Obligations.SplitUpdatesEqualOneUpdate := by
  unfold Obligations.SplitUpdatesEqualOneUpdate
  intro m n s hready hwhole hbuf hroom
  rw [List.length_append] at hroom
  have hcounted : (alignedUpdate m (8 * m.length) s.sk).bytesHashed.toNat = s.sk.bytesHashed.toNat + m.length := by
    rw [alignedUpdate_bytesHashed_toNat (by rw [bytesForBits_mul_eight]; omega), bytesForBits_mul_eight]
  refine ⟨_, _, _, exec_skUpdate_withBytes hready hwhole (by omega),
    exec_skUpdate_withBytes ?_ ?_ ?_,
    exec_skUpdate_withBytes hready hwhole (by rw [List.length_append]; exact hroom), rfl, rfl, rfl, ?_⟩
  · exact hready
  · rw [State.respond_sk, State.setSk_sk, alignedUpdate_whole]
    exact hwhole
  · rw [State.respond_sk, State.setSk_sk, hcounted]
    omega
  · exact alignedUpdate_alignedUpdate_whole m n hbuf

/-- Settles O36: lazy dispatch processes the blocks UBI processes without Final, and finalization the last one. -/
theorem messagePathComputesUbi : Obligations.MessagePathComputesUbi := by
  unfold Obligations.MessagePathComputesUbi
  intro w db x m s t hs hroom h
  rw [exec_skUpdate_withBytes (by rw [hs]) (by rw [hs]) (by rw [hs]; simpa using hroom)] at h
  cases h
  rw [State.respond_sk, State.setSk_sk, hs, rootChain_alignedUpdate_whole m rfl (Nat.zero_le _), absorbBlocks_eq, ubi,
    ubiChain_eq]
  rfl

end Sys2Proof.Machine
end

section
/-! Configuration and the update engine, for the family 42_init_update: the configuration block (R117), what `SK_INIT`
and `SK_UPDATE` answer on each path (R118, R121 to R128), the last byte of the buffer (R43, R124 to R126), and the
invariants of the engine context (R25). -/

namespace Sys2Proof.Machine

/-! ## SK_INIT (R116 to R118) -/

theorem exec_skInit_of_width {c : BitVec 2} {w : Width} {s : State} (f : InitMask) (hw : Width.ofCode c = some w)
    (ha : s.port.arg0 ≠ 0) :
    exec (.skInit c f) s =
      .next ((s.setSk (freshEngine w s.port.arg0 (initChain w s.port.arg0 (initInputs f s.port)))).respond []) := by
  simp only [exec, execSkInit, hw]
  exact if_neg ha

theorem exec_skInit_of_no_bits {c : BitVec 2} {s : State} (f : InitMask) (hc : c ≠ 3#2) (ha : s.port.arg0 = 0) :
    exec (.skInit c f) s = .next (s.fail .invalidArgument) := by
  obtain ⟨w, hw⟩ := Option.ne_none_iff_exists'.1 (mt (Width.ofCode_eq_none_iff c).1 hc)
  simp [exec, execSkInit, hw, ha, raise]

/-- `SK_INIT` reads its presence mask only through the inputs it takes. -/
theorem exec_skInit_congr {c : BitVec 2} {f g : InitMask} {s : State} (h : initInputs f s.port = initInputs g s.port) :
    exec (.skInit c f) s = exec (.skInit c g) s := by
  simp only [exec, execSkInit, h]

@[simp] theorem optionalInput_nil (flag : Bool) : optionalInput flag [] = none := by cases flag <;> rfl

/-- The configuration block is four words (R117). -/
theorem configBlock_eq_bytesOf (db : Word) : configBlock db = bytesOf [0x0000000133414853#64, db, 0, 0] := by
  have hschema : leBytes 0x0000000133414853#64 =
      [0x53#8, 0x48#8, 0x41#8, 0x33#8, 0x01#8, 0x00#8, 0x00#8, 0x00#8] := by decide
  have hzeros : zeros 16 = leBytes 0 ++ (leBytes 0 ++ []) := by decide
  rw [configBlock, hzeros, ← hschema, List.append_assoc]
  rfl

/-- A UBI invocation leaves NW words, whatever its input. -/
theorem length_ubi (w : Width) (g : List Word) (m : List Byte) (ty : BlockType) : (ubi w g m ty).length = w.words := by
  rw [ubi, ubiChain_eq]
  exact length_processBlock_x _ _ _ _ (length_padBlock _ _ (length_drop_blocksBeforeLast_le w m))

theorem length_ubiIfPresent {w : Width} {x : List Word} (input : Option (List Byte)) (ty : BlockType)
    (h : x.length = w.words) : (ubiIfPresent w input ty x).length = w.words := by
  cases input with
  | none => exact h
  | some m => exact length_ubi w x m ty

theorem length_initChain (w : Width) (db : Word) (inp : InitInputs) : (initChain w db inp).length = w.words :=
  length_ubiIfPresent _ _ <| length_ubiIfPresent _ _ <| length_ubiIfPresent _ _ <| length_ubiIfPresent _ _ <|
    length_ubi _ _ _ _

/-! ## The paths of SK_UPDATE (R121 to R128) -/

theorem bytesForBits_eq_div_add (a : Nat) : bytesForBits a = a / 8 + (if a % 8 ≠ 0 then 1 else 0) := by
  unfold bytesForBits
  split_ifs <;> omega

section
variable {b : Bool} {s : State} (hready : s.sk.ready = true)
include hready

/-- R121: the operand does not hold the bits. -/
theorem exec_skUpdate_of_excess (h : updateBits b s.port > 8 * s.port.d0.length) :
    exec (.skUpdate b) s = .next (s.fail .invalidArgument) := by
  simp [exec, execSkUpdate, hready, h, raise]

/-- R122: more bits than the partial byte misses. -/
theorem exec_skUpdate_of_unaligned (hheld : s.sk.missing ≠ 0) (h : updateBits b s.port > s.sk.missing.val) :
    exec (.skUpdate b) s = .next (s.fail .invalidArgument) := by
  simp [exec, execSkUpdate, hready, hheld, h, raise]

variable (hbits : updateBits b s.port ≤ 8 * s.port.d0.length)
include hbits

/-- R126: the bits go into the partial byte. -/
theorem exec_skUpdate_of_merge (hheld : s.sk.missing ≠ 0) (h : updateBits b s.port ≤ s.sk.missing.val) :
    exec (.skUpdate b) s = .next ((s.setSk (mergeUpdate s.port.d0 (updateBits b s.port) s.sk)).respond []) := by
  simp [exec, execSkUpdate, hready, hheld, Nat.not_lt.2 hbits, Nat.not_lt.2 h, complete]

/-- R123: the counter has no room. -/
theorem exec_skUpdate_of_overflow (hwhole : s.sk.missing = 0)
    (h : s.sk.bytesHashed.toNat + bytesForBits (updateBits b s.port) ≥ 2 ^ 64 - 1) :
    exec (.skUpdate b) s = .next (s.fail .overflow) := by
  simp only [exec, execSkUpdate, hready, hwhole]
  rw [if_neg (by decide), if_neg (Nat.not_lt.2 hbits), if_neg (by decide), if_pos h, raise]

/-- R127: the bytes are absorbed. -/
theorem exec_skUpdate_of_aligned (hwhole : s.sk.missing = 0)
    (h : s.sk.bytesHashed.toNat + bytesForBits (updateBits b s.port) < 2 ^ 64 - 1) :
    exec (.skUpdate b) s = .next ((s.setSk (alignedUpdate s.port.d0 (updateBits b s.port) s.sk)).respond []) := by
  simp only [exec, execSkUpdate, hready, hwhole]
  rw [if_neg (by decide), if_neg (Nat.not_lt.2 hbits), if_neg (by decide), if_neg (Nat.not_le.2 h), complete]

end

/-! An update that gives its bit count (R58). -/

section
variable {s : State} {m : List Byte} {bits : Nat}

theorem updateBits_withBits (h : bits < 2 ^ 64) : updateBits true (s.withBits m bits).port = bits := Nat.mod_eq_of_lt h

variable (hready : s.sk.ready = true) (hbits : bits ≤ 8 * m.length)
include hready hbits

theorem exec_skUpdate_withBits_aligned (hlt : bits < 2 ^ 64) (hwhole : s.sk.missing = 0)
    (hroom : s.sk.bytesHashed.toNat + bytesForBits bits < 2 ^ 64 - 1) :
    exec (.skUpdate true) (s.withBits m bits) =
      .next (((s.withBits m bits).setSk (alignedUpdate m bits s.sk)).respond []) := by
  have hval := updateBits_withBits (s := s) (m := m) hlt
  have h := exec_skUpdate_of_aligned (b := true) (s := s.withBits m bits) hready (hval.trans_le hbits) hwhole
    (by rw [hval]; exact hroom)
  rwa [hval] at h

theorem exec_skUpdate_withBits_merge (hheld : s.sk.missing ≠ 0) (hfits : bits ≤ s.sk.missing.val) :
    exec (.skUpdate true) (s.withBits m bits) =
      .next (((s.withBits m bits).setSk (mergeUpdate m bits s.sk)).respond []) := by
  have hval := updateBits_withBits (s := s) (m := m) (bits := bits) (by omega)
  have h := exec_skUpdate_of_merge (b := true) (s := s.withBits m bits) hready (hval.trans_le hbits) hheld
    (hval.trans_le hfits)
  rwa [hval] at h

end

/-! ## The bits of a partial byte (R43, R125, R126) -/

/-- The mask of the bits below `n` is the complement of the mask of the bits from `n` up. -/
theorem lowMask_eq_not {n : Nat} (h : n < 8) : (1#8 <<< n) - 1#8 = ~~~(0xFF#8 <<< n) := by
  interval_cases n <;> decide

/-- The end of a byte with `miss` missing bits (R43): the terminator, and no bit below it. -/
def EndsInTerminator (p : Byte) (miss : Nat) : Prop := p &&& ((1#8 <<< miss) - 1#8) = 1#8 <<< (miss - 1)

theorem endsInTerminator_of_bits {p : Byte} {miss : Nat} (hpos : 1 ≤ miss) (hlt : miss < 8)
    (hterm : p.getLsbD (miss - 1) = true) (hclear : ∀ j, j < miss - 1 → p.getLsbD j = false) :
    EndsInTerminator p miss := by
  refine BitVec.eq_of_getLsbD_eq fun j hj => ?_
  have hone : (1#8 <<< (miss - 1)).getLsbD j = decide (j = miss - 1) := by
    rw [← BitVec.twoPow_eq, BitVec.getLsbD_twoPow]
    grind
  rw [hone, BitVec.getLsbD_and, lowMask_eq_not hlt, BitVec.getLsbD_not, getLsbD_ff_shiftLeft]
  obtain hj' | rfl | hj' := Nat.lt_trichotomy j (miss - 1)
  · simp [hclear j hj', hj'.ne]
  · have : ¬ miss ≤ miss - 1 := by omega
    simp [hterm, this, hj]
  · have : miss ≤ j := by omega
    simp [this, hj, hj'.ne']

/-- The partial byte an update of `r` bits leaves misses the other `8 - r`. -/
theorem endsInTerminator_partialByte (b : Byte) {r : Nat} (hpos : 1 ≤ r) (hlt : r ≤ 7) :
    EndsInTerminator (partialByte b r) (8 - r) := by
  obtain ⟨-, hterm, hclear⟩ := partialByteShape b r hpos hlt
  have hsub : 8 - r - 1 = 7 - r := by omega
  exact endsInTerminator_of_bits (by omega) (by omega) (hsub ▸ hterm) (hsub ▸ hclear)

theorem getLsbD_mergedBits (miss k j : Nat) (b : Byte) :
    (mergedBits miss b k).getLsbD j =
      (b.getLsbD (8 - miss + j) && (decide (8 - k ≤ 8 - miss + j) && decide (8 - miss + j < 8))) := by
  unfold mergedBits
  split_ifs with hk
  · simp [hk]
  · rw [BitVec.getLsbD_ushiftRight, BitVec.getLsbD_and, getLsbD_ff_shiftLeft]

theorem getLsbD_terminatorBit {miss : Nat} (h : miss ≤ 8) (j : Nat) :
    (terminatorBit miss).getLsbD j = decide (j + 1 = miss) := by
  unfold terminatorBit
  split_ifs with hpos
  · rw [← BitVec.twoPow_eq, BitVec.getLsbD_twoPow]
    grind
  · simp
    omega

theorem getLsbD_mergeByte (p b : Byte) {miss k : Nat} (h : miss ≤ 8) (j : Nat) :
    (mergeByte p miss b k).getLsbD j =
      (p.getLsbD j && (decide (miss ≤ j) && decide (j < 8)) ||
        b.getLsbD (8 - miss + j) && (decide (8 - k ≤ 8 - miss + j) && decide (8 - miss + j < 8)) ||
        decide (j + 1 = miss - k)) := by
  rw [mergeByte, BitVec.getLsbD_or, BitVec.getLsbD_or, BitVec.getLsbD_and, getLsbD_ff_shiftLeft, getLsbD_mergedBits,
    getLsbD_terminatorBit (by omega)]

/-- A merge of no bits does not look at the new byte. -/
theorem mergeByte_ite_pos (p b : Byte) (miss k : Nat) :
    mergeByte p miss (if k > 0 then b else 0) k = mergeByte p miss b k := by
  split_ifs with hk
  · rfl
  · rw [Nat.eq_zero_of_not_pos hk]
    rfl

/-- A merge of no bits leaves a byte that ends in its terminator as it was. -/
theorem mergeByte_zero {p : Byte} {miss : Nat} (b : Byte) (hpos : 0 < miss) (hlt : miss < 8)
    (h : EndsInTerminator p miss) : mergeByte p miss b 0 = p := by
  have hterm : terminatorBit (miss - 0) = p &&& ~~~(0xFF#8 <<< miss) := by
    rw [← lowMask_eq_not hlt, h]
    exact if_pos hpos
  have hnone : mergedBits miss b 0 = 0#8 := rfl
  rw [mergeByte, hnone, hterm, BitVec.or_zero, ← BitVec.and_or_distrib_left, BitVec.or_not_self, BitVec.and_allOnes]

/-- What is left of a partial byte after a merge ends in the terminator, below the new bits. -/
theorem endsInTerminator_mergeByte (p b : Byte) {miss k : Nat} (hlt : miss < 8) (hk : k < miss) :
    EndsInTerminator (mergeByte p miss b k) (miss - k) := by
  refine endsInTerminator_of_bits (by omega) (by omega) ?_ fun j hj => ?_
  · have hterm : miss - k - 1 + 1 = miss - k := by omega
    rw [getLsbD_mergeByte p b hlt.le]
    simp [hterm]
  · have hheld : ¬ miss ≤ j := by omega
    have hnew : ¬ 8 - k ≤ 8 - miss + j := by omega
    have hterm : j + 1 ≠ miss - k := by omega
    rw [getLsbD_mergeByte p b hlt.le]
    simp [hheld, hnew, hterm]

/-- Completing a partial byte with the bits it misses gives the whole byte. -/
theorem mergeByte_partialByte (b : Byte) {k : Nat} (hpos : 1 ≤ k) (hlt : k ≤ 7) :
    mergeByte (partialByte b k) (8 - k) (b <<< k) (8 - k) = b := by
  refine BitVec.eq_of_getLsbD_eq fun j hj => ?_
  rw [getLsbD_mergeByte _ _ (by omega), getLsbD_partialByte, BitVec.getLsbD_shiftLeft]
  by_cases hheld : 8 - k ≤ j
  · have hnew : ¬ 8 - (8 - k) + j < 8 := by omega
    have hterm : k + j ≠ 7 := by omega
    simp [hheld, hj, hnew, hterm]
  · have hnew : 8 - (8 - k) + j = k + j := by omega
    have hlow : k + j < 8 := by omega
    have hmask : 8 ≤ k + j + (8 - k) := by omega
    simp [hheld, hnew, hlow, hmask]

/-! ## The last byte of the buffer (R22, R124) -/

/-- `Absorb` in closed form: the blocks that a byte follows are processed, and the rest is buffered. -/
theorem absorb_eq {e : EngineCtx} (m : List Byte) (h : e.buf.length ≤ e.nb.bytes) :
    absorb m e =
      { e.setChain (processBlocks e.nb e.chain (e.buf ++ m) (blocksBeforeLast e.nb (e.buf ++ m)) e.nb.bytes) with
        buf := (e.buf ++ m).drop (blocksBeforeLast e.nb (e.buf ++ m) * e.nb.bytes) } := by
  rw [absorb, absorbInto_eq_absorbBlocks _ m h, absorbBlocks_eq]

/-- A non-empty string has a byte after those blocks. -/
theorem length_drop_blocksBeforeLast_pos {w : Width} {d : List Byte} (h : d ≠ []) :
    1 ≤ (d.drop (blocksBeforeLast w d * w.bytes)).length := by
  have hpos := List.length_pos_of_ne_nil h
  have hle : blocksBeforeLast w d * w.bytes ≤ d.length - 1 := Nat.div_mul_le_self _ _
  rw [List.length_drop]
  omega

theorem blocksBeforeLast_concat (w : Width) (d : List Byte) (b : Byte) :
    blocksBeforeLast w (d ++ [b]) = d.length / w.bytes := by
  simp [blocksBeforeLast]

/-- The last byte absorbed is the last byte buffered, and nothing else depends on it. -/
theorem absorb_concat {e : EngineCtx} (m : List Byte) (b : Byte) (h : e.buf.length ≤ e.nb.bytes) :
    absorb (m ++ [b]) e =
      { e.setChain (processBlocks e.nb e.chain (e.buf ++ m) ((e.buf ++ m).length / e.nb.bytes) e.nb.bytes) with
        buf := (e.buf ++ m).drop ((e.buf ++ m).length / e.nb.bytes * e.nb.bytes) ++ [b] } := by
  have hle := Nat.div_mul_le_self (e.buf ++ m).length e.nb.bytes
  rw [absorb_eq _ h, ← List.append_assoc, blocksBeforeLast_concat, processBlocks_append_of_le _ _ _ _ hle,
    List.drop_append_of_le_length hle]

theorem byteAt_concat (d : List Byte) (b : Byte) : byteAt (d ++ [b]) ((d ++ [b]).length - 1) = b := by
  simp [byteAt]

/-! ## What the two paths leave (R126, R127) -/

/-- The whole bytes, then the partial byte if there is one (R127). -/
theorem updateBytes_eq_append (d : List Byte) (bits : Nat) :
    updateBytes d bits =
      d.take (bits / 8) ++ if bits % 8 = 0 then [] else [partialByte (byteAt d (bits / 8)) (bits % 8)] := by
  by_cases hr : bits % 8 = 0 <;> simp [updateBytes, hr]

/-- With no bit missing before, the `8 - r` of a partial byte are missing, and none (8 modulo 8) after whole bytes. -/
theorem updateMissing_zero (bits : Nat) : updateMissing 0 bits = Fin.ofNat 8 (8 - bits % 8) := by
  unfold updateMissing
  split_ifs with hr
  · rfl
  · rw [not_not.1 hr]
    rfl

theorem updateBytes_of_partial (m : List Byte) (b : Byte) {k : Nat} (hpos : 1 ≤ k) (hlt : k ≤ 7) :
    updateBytes (m ++ [b]) (8 * m.length + k) = m ++ [partialByte b k] := by
  have hdiv : (8 * m.length + k) / 8 = m.length := by omega
  have hmod : (8 * m.length + k) % 8 = k := by omega
  rw [updateBytes, hdiv, hmod, if_pos (by omega), List.take_left, byteAt_append_right _ _ _ le_rfl, Nat.sub_self]
  rfl

theorem length_updateBytes {d : List Byte} {bits : Nat} (h : bits ≤ 8 * d.length) :
    (updateBytes d bits).length = bytesForBits bits := by
  unfold updateBytes bytesForBits
  split_ifs <;> simp <;> omega

/-- A merge replaces the last byte of the buffer. -/
theorem mergeUpdate_of_held {e : EngineCtx} (h : 1 ≤ e.bcnt) (new : List Byte) (k : Nat) :
    mergeUpdate new k e =
      { e with
        buf := e.buf.take (e.bcnt - 1) ++
          [mergeByte (byteAt e.buf (e.bcnt - 1)) e.missing.val (byteAt new 0) k]
        missing := Fin.ofNat 8 (e.missing.val - k) } := by
  have hlast : e.bcnt - 1 < e.buf.length := Nat.sub_one_lt_of_le h le_rfl
  have hend : e.bcnt - 1 + 1 = e.buf.length := Nat.sub_add_cancel h
  rw [mergeUpdate, List.set_eq_take_append_cons_drop, if_pos hlast, hend, List.drop_length]

/-- The same with the last byte named. -/
theorem mergeUpdate_of_concat {e : EngineCtx} {d : List Byte} {p : Byte} (h : e.buf = d ++ [p]) (new : List Byte)
    (k : Nat) :
    mergeUpdate new k e =
      { e with
        buf := d ++ [mergeByte p e.missing.val (byteAt new 0) k]
        missing := Fin.ofNat 8 (e.missing.val - k) } := by
  have hcount : e.bcnt = d.length + 1 := by rw [EngineCtx.bcnt, h, List.length_append, List.length_singleton]
  have hbyte : byteAt e.buf (e.bcnt - 1) = p := by rw [EngineCtx.bcnt, h, byteAt_concat]
  rw [mergeUpdate_of_held (by omega), hbyte, hcount, Nat.add_sub_cancel, h, List.take_left]

/-- An update that ends after `k` bits of a byte counts that byte, and remembers the bits it misses. -/
theorem alignedUpdate_of_partial (m : List Byte) (b : Byte) {k : Nat} (hpos : 1 ≤ k) (hlt : k ≤ 7) (e : EngineCtx) :
    alignedUpdate (m ++ [b]) (8 * m.length + k) e =
      { absorb (m ++ [partialByte b k]) e with
        bytesHashed := e.bytesHashed + BitVec.ofNat 64 (m ++ [b]).length
        missing := Fin.ofNat 8 (8 - k) } := by
  have hmod : (8 * m.length + k) % 8 = k := by omega
  have hbytes : bytesForBits (8 * m.length + k) = (m ++ [b]).length := by
    rw [bytesForBits, List.length_append, List.length_singleton]
    omega
  rw [alignedUpdate, updateBytes_of_partial m b hpos hlt, updateMissing, hmod, if_pos (by omega), hbytes]

/-- A partial byte and its completion leave the engine as the whole byte does (R126). -/
theorem mergeUpdate_alignedUpdate {e : EngineCtx} (m : List Byte) (b : Byte) {k : Nat} (hpos : 1 ≤ k) (hlt : k ≤ 7)
    (hbuf : e.buf.length ≤ e.nb.bytes) (hwhole : e.missing = 0) :
    mergeUpdate [b <<< k] (8 - k) (alignedUpdate (m ++ [b]) (8 * m.length + k) e) =
      alignedUpdate (m ++ [b]) (8 * (m ++ [b]).length) e := by
  have hmiss : (Fin.ofNat 8 (8 - k)).val = 8 - k := Nat.mod_eq_of_lt (by omega)
  have hnew : byteAt [b <<< k] 0 = b <<< k := rfl
  rw [alignedUpdate_whole, alignedUpdate_of_partial m b hpos hlt, absorb_concat m b hbuf, absorb_concat m _ hbuf,
    mergeUpdate_of_concat rfl]
  simp only [hmiss, hnew, mergeByte_partialByte b hpos hlt, Nat.sub_self, EngineCtx.setChain_missing, hwhole]
  rfl

/-! ## The engine's invariants (R25) -/

/-- The invariants that speak of the partial byte are those of the buffer's last byte and of `SK_MISSING` (R25 (5)). -/
theorem EngineWf.setLast {e : EngineCtx} (h : EngineWf e) {buf : List Byte} {missing : Fin 8}
    (hlen : buf.length = e.buf.length)
    (hheld : missing ≠ 0 → 1 ≤ buf.length ∧ EndsInTerminator (byteAt buf (buf.length - 1)) missing.val) :
    EngineWf { e with buf := buf, missing := missing } :=
  { h with
    counted := by rw [h.counted, EngineCtx.bcnt, EngineCtx.bcnt, hlen]
    lazy := fun ht => (h.lazy ht).trans hlen.ge
    partialHeld := fun hm => (hheld hm).1
    terminated := fun hm => (hheld hm).2
    bounded := hlen.trans_le h.bounded }

theorem engineWf_freshEngine {w : Width} {db : Word} {x : List Word} (hdb : db ≠ 0) (hx : x.length = w.words) :
    EngineWf (freshEngine w db x) where
  counted := rfl
  aligned := Nat.zero_mod _
  lazy := fun h => absurd h (Nat.lt_irrefl 0)
  first := (by decide : firstField (startFlags .msg) = true)
  partialHeld := fun h => absurd rfl h
  terminated := fun h => absurd rfl h
  bounded := Nat.zero_le _
  typeMsg := (by decide : typeField (startFlags .msg) = 48#6)
  treeLevel := (by decide : treeLevelField (startFlags .msg) = 0#7)
  bitPad := (by decide : bitPadField (startFlags .msg) = false)
  final := (by decide : finalField (startFlags .msg) = false)
  reserved := (by decide : reservedField (startFlags .msg) = 0#48)
  capped := Nat.zero_le _
  digestBits := hdb
  words := hx

/-- Clearing First leaves the other bits. -/
theorem getLsbD_clearFirst (t1 : Word) {j : Nat} (h : j ≠ 62) : (clearFirst t1).getLsbD j = t1.getLsbD j := by
  have hfirst : firstFlag.getLsbD j = false := by
    rw [firstFlag, ← BitVec.twoPow_eq, BitVec.getLsbD_twoPow]
    simp [h.symm]
  rw [clearFirst, BitVec.getLsbD_and, BitVec.getLsbD_not, hfirst]
  simpa using BitVec.lt_of_getLsbD (x := t1) (i := j)

/-- The dispatcher's blocks leave every flag but First. -/
theorem getLsbD_processBlocks_t1 (w : Width) (c : Chain) (d : List Byte) (n inc : Nat) {j : Nat} (h : j ≠ 62) :
    (processBlocks w c d n inc).t1.getLsbD j = c.t1.getLsbD j := by
  cases n with
  | zero => rfl
  | succ n => rw [processBlocks_t1 _ _ _ _ _ n.succ_ne_zero, getLsbD_clearFirst _ h]

theorem extractLsb'_processBlocks_t1 (w : Width) (c : Chain) (d : List Byte) (n inc : Nat) {start len : Nat}
    (h : start + len ≤ 62) :
    (processBlocks w c d n inc).t1.extractLsb' start len = c.t1.extractLsb' start len := by
  refine BitVec.eq_of_getLsbD_eq fun j hj => ?_
  rw [BitVec.getLsbD_extractLsb', BitVec.getLsbD_extractLsb', getLsbD_processBlocks_t1 _ _ _ _ _ (by omega)]

theorem firstField_processBlocks_t1 (w : Width) (c : Chain) (d : List Byte) (n inc : Nat) :
    firstField (processBlocks w c d n inc).t1 = (firstField c.t1 && decide (n = 0)) := by
  cases n with
  | zero => simp
  | succ n => simp [processBlocks_t1, clearFirst, firstField, firstFlag]

/-- The invariants survive lazy dispatch of a string that begins with the buffer, when the counter grows with it. -/
theorem EngineWf.dispatch {e : EngineCtx} (h : EngineWf e) (hwhole : e.missing = 0) {d : List Byte} {count : Word}
    (hbuf : e.bcnt ≤ d.length) (hcount : count.toNat = e.t0.toNat + d.length) (hcap : count.toNat ≤ 2 ^ 64 - 2) :
    EngineWf
      { e.setChain (processBlocks e.nb e.chain d (blocksBeforeLast e.nb d) e.nb.bytes) with
        buf := d.drop (blocksBeforeLast e.nb d * e.nb.bytes)
        bytesHashed := count } := by
  have hle := blocksBeforeLast_mul_le e.nb d
  have hpos : (processBlocks e.nb e.chain d (blocksBeforeLast e.nb d) e.nb.bytes).t0.toNat =
      e.t0.toNat + blocksBeforeLast e.nb d * e.nb.bytes := by
    rw [processBlocks_t0, BitVec.toNat_add, BitVec.toNat_ofNat, EngineCtx.chain_t0]
    omega
  have hnone : blocksBeforeLast e.nb d * e.nb.bytes = 0 ↔ blocksBeforeLast e.nb d = 0 := by
    simp [e.nb.bytes_pos.ne']
  constructor
  case counted => simp only [EngineCtx.bcnt, List.length_drop, EngineCtx.setChain_t0]; omega
  case aligned => simpa [hpos] using h.aligned
  case lazy =>
    intro ht
    refine length_drop_blocksBeforeLast_pos fun hd => ?_
    have hempty : e.bcnt = 0 := by simpa [hd] using hbuf
    have ht0 : e.t0.toNat ≠ 0 := by simpa [hd, hpos, blocksBeforeLast, Nat.pos_iff_ne_zero] using ht
    have := h.lazy (Nat.pos_of_ne_zero ht0)
    omega
  case first =>
    rw [EngineCtx.setChain_t1, firstField_processBlocks_t1, EngineCtx.chain_t1, h.first, EngineCtx.setChain_t0,
      Bool.and_eq_decide, decide_eq_decide, decide_eq_true_iff, decide_eq_true_iff, ← BitVec.toNat_inj,
      ← BitVec.toNat_inj, hpos, ← hnone]
    exact Nat.add_eq_zero_iff.symm
  case partialHeld => exact fun hm => absurd hwhole hm
  case terminated => exact fun hm => absurd hwhole hm
  case bounded => exact length_drop_blocksBeforeLast_le e.nb d
  case typeMsg => exact (extractLsb'_processBlocks_t1 _ _ _ _ _ (by decide)).trans h.typeMsg
  case treeLevel => exact (extractLsb'_processBlocks_t1 _ _ _ _ _ (by decide)).trans h.treeLevel
  case bitPad => exact (getLsbD_processBlocks_t1 _ _ _ _ _ (by decide)).trans h.bitPad
  case final => exact (getLsbD_processBlocks_t1 _ _ _ _ _ (by decide)).trans h.final
  case reserved => exact (extractLsb'_processBlocks_t1 _ _ _ _ _ (by decide)).trans h.reserved
  case capped => exact hcap
  case digestBits => exact h.digestBits
  case words =>
    by_cases hn : blocksBeforeLast e.nb d = 0
    · simpa [hn] using h.words
    · exact length_processBlocks_x _ _ _ _ _ hn hle

/-- The byte-aligned path keeps the invariants (R127). -/
theorem EngineWf.alignedUpdate {e : EngineCtx} (h : EngineWf e) (hwhole : e.missing = 0) {d : List Byte} {bits : Nat}
    (hbits : bits ≤ 8 * d.length) (hroom : e.bytesHashed.toNat + bytesForBits bits < 2 ^ 64 - 1) :
    EngineWf (alignedUpdate d bits e) := by
  have hcount : (e.bytesHashed + BitVec.ofNat 64 (bytesForBits bits)).toNat =
      e.bytesHashed.toNat + bytesForBits bits := alignedUpdate_bytesHashed_toNat (d := d) hroom
  have hlen : (e.buf ++ updateBytes d bits).length = e.bcnt + bytesForBits bits := by
    rw [List.length_append, length_updateBytes hbits, EngineCtx.bcnt]
  have hcounted := h.counted
  have habsorbed : EngineWf { absorb (updateBytes d bits) e with
      bytesHashed := e.bytesHashed + BitVec.ofNat 64 (bytesForBits bits) } := by
    rw [absorb_eq _ h.bounded]
    exact h.dispatch hwhole (by omega) (by omega) (by omega)
  refine habsorbed.setLast (buf := (absorb (updateBytes d bits) e).buf) rfl fun hm => ?_
  by_cases hr : bits % 8 = 0
  · rw [updateMissing, if_neg (not_not_intro hr)] at hm
    exact absurd hwhole hm
  · have hmiss : (updateMissing e.missing bits).val = 8 - bits % 8 := by
      rw [updateMissing, if_pos hr]
      exact Nat.mod_eq_of_lt (by omega)
    rw [updateBytes, if_pos hr, absorb_concat _ _ h.bounded, byteAt_concat, hmiss]
    exact ⟨by simp, endsInTerminator_partialByte _ (by omega) (by omega)⟩

/-- The bit-unaligned path keeps the invariants (R126). -/
theorem EngineWf.mergeUpdate {e : EngineCtx} (h : EngineWf e) (hheld : e.missing ≠ 0) (d : List Byte) (k : Nat) :
    EngineWf (mergeUpdate d k e) := by
  have hpos := h.partialHeld hheld
  have hmiss : (Fin.ofNat 8 (e.missing.val - k)).val = e.missing.val - k := Nat.mod_eq_of_lt (by omega)
  rw [mergeUpdate_of_held hpos]
  refine h.setLast ?_ fun hm => ?_
  · rw [List.length_append, List.length_take_of_le (i := e.bcnt - 1) (Nat.sub_le _ _), List.length_singleton]
    exact Nat.sub_add_cancel hpos
  · have hk : k < e.missing.val := Nat.lt_of_not_le fun hle => hm (Fin.ext (hmiss.trans (Nat.sub_eq_zero_of_le hle)))
    rw [byteAt_concat, hmiss]
    exact ⟨by simp, endsInTerminator_mergeByte _ _ e.missing.isLt hk⟩

/-! ## An empty update (R129 (1)) -/

/-- The dispatcher of no bytes leaves the buffer as it is, even a full one. -/
theorem alignedUpdate_zero {e : EngineCtx} (d : List Byte) (h : e.buf.length ≤ e.nb.bytes) :
    alignedUpdate d 0 e = e := by
  have hblocks : blocksBeforeLast e.nb (e.buf ++ []) = 0 := by
    rw [List.append_nil, blocksBeforeLast_eq_zero h]
  have hbytes : updateBytes d 0 = [] := rfl
  have hcount : e.bytesHashed + BitVec.ofNat 64 (bytesForBits 0) = e.bytesHashed := BitVec.add_zero _
  rw [alignedUpdate, hbytes, absorb_eq _ h, hblocks, hcount, List.append_nil, Nat.zero_mul, List.drop_zero]
  rfl

/-- A merge of no bits leaves the partial byte as the invariants describe it. -/
theorem mergeUpdate_zero {e : EngineCtx} (h : EngineWf e) (hheld : e.missing ≠ 0) (d : List Byte) :
    mergeUpdate d 0 e = e := by
  have hlast : e.bcnt - 1 < e.buf.length := Nat.sub_one_lt_of_le (h.partialHeld hheld) le_rfl
  have hbyte : mergeByte (byteAt e.buf (e.bcnt - 1)) e.missing.val (byteAt d 0) 0 = e.buf[e.bcnt - 1] := by
    rw [mergeByte_zero _ (Nat.pos_of_ne_zero (Fin.val_ne_of_ne hheld)) e.missing.isLt (h.terminated hheld),
      byteAt_of_lt hlast]
  rw [mergeUpdate, hbyte, List.set_getElem_self, Nat.sub_zero, Fin.ofNat_val_eq_self]

/-! ## The invariants along a run -/

/-- A command writes the engine only by `SK_INIT` and `SK_UPDATE`, and both keep the invariants. -/
theorem exec_keeps_engineInv {i : Instr} {s t : State} (hs : EngineInv s.sk) (h : exec i s = .next t) :
    EngineInv t.sk := by
  cases exec_effect h with
  | fails => exact hs
  | answers => exact hs
  | initializes _ bits => exact fun _ => engineWf_freshEngine bits (length_initChain _ _ _)
  | merges ready _ held => exact fun _ => (hs ready).mergeUpdate held _ _
  | absorbs ready present whole counts => exact fun _ => (hs ready).alignedUpdate whole present counts
  | setsUp => exact hs
  | setsTweak => exact hs

/-! ## The statements -/

/-- Settles O58: after reset the engine is unconfigured, and every command keeps its invariants. -/
theorem engineInvariantIsKept : Obligations.EngineInvariantIsKept := by
  unfold Obligations.EngineInvariantIsKept
  intro s t
  exact step_keeps (P := fun s => EngineInv s.sk) (reset := fun _ h => by cases h) (drop := fun _ _ hs => hs)
    (accept := fun _ _ _ hs => hs) (illegal := fun _ hs => hs) (command := fun _ _ _ => exec_keeps_engineInv)

/-- Settles O28: the closed form of `Absorb`, with a byte after the processed blocks. -/
theorem absorbKeepsTheLastBlock : Obligations.AbsorbKeepsTheLastBlock := by
  unfold Obligations.AbsorbKeepsTheLastBlock
  intro m e hbuf hm
  have hblocks : (e.buf.length + m.length - 1) / e.nb.bytes = blocksBeforeLast e.nb (e.buf ++ m) := by
    rw [blocksBeforeLast, List.length_append]
  rw [hblocks, absorb_eq m hbuf, processBlocks_take _ _ _ (blocksBeforeLast_mul_le _ _)]
  exact ⟨rfl, rfl, length_drop_blocksBeforeLast_pos (by simp [hm]), length_drop_blocksBeforeLast_le _ _⟩

/-- Settles O34: a merge of no bits leaves the partial byte as it was, and the dispatcher leaves the buffer. -/
theorem emptyUpdateChangesNothing : Obligations.EmptyUpdateChangesNothing := by
  unfold Obligations.EmptyUpdateChangesNothing
  intro b s hready hwf hzero
  have hbits : updateBits b s.port ≤ 8 * s.port.d0.length := by rw [hzero]; exact Nat.zero_le _
  by_cases hheld : s.sk.missing = 0
  · have hroom : s.sk.bytesHashed.toNat + bytesForBits (updateBits b s.port) < 2 ^ 64 - 1 := by
      rw [hzero]
      exact Nat.lt_of_le_of_lt hwf.capped (by decide)
    rw [exec_skUpdate_of_aligned hready hbits hheld hroom, hzero, alignedUpdate_zero _ hwf.bounded]
    rfl
  · have hfits : updateBits b s.port ≤ s.sk.missing.val := by rw [hzero]; exact Nat.zero_le _
    rw [exec_skUpdate_of_merge hready hbits hheld hfits, hzero, mergeUpdate_zero hwf hheld]
    rfl

/-- Settles O37: the second update completes the byte the first leaves, and the third absorbs it whole. -/
theorem partialThenCompletionEqualsWhole : Obligations.PartialThenCompletionEqualsWhole := by
  unfold Obligations.PartialThenCompletionEqualsWhole
  intro m b k s hpos hlt hready hwhole hbuf hfits hroom
  have hcount : bytesForBits (8 * m.length + k) = m.length + 1 := by unfold bytesForBits; omega
  have hmiss : (alignedUpdate (m ++ [b]) (8 * m.length + k) s.sk).missing.val = 8 - k := by
    rw [alignedUpdate_of_partial m b hpos hlt]
    exact Nat.mod_eq_of_lt (by omega)
  have hheld : (alignedUpdate (m ++ [b]) (8 * m.length + k) s.sk).missing ≠ 0 := fun h => by
    rw [h, Fin.val_zero] at hmiss
    omega
  refine ⟨_, _, _,
    exec_skUpdate_withBits_aligned hready (by rw [List.length_append, List.length_singleton]; omega) hfits hwhole
      (by rw [hcount]; exact hroom),
    hmiss, exec_skUpdate_withBits_merge ?_ ?_ hheld hmiss.ge,
    exec_skUpdate_withBytes hready hwhole (by rw [List.length_append]; exact hroom), rfl, rfl, rfl,
    mergeUpdate_alignedUpdate m b hpos hlt hbuf hwhole⟩
  · exact hready
  · rw [List.length_singleton]
    omega

/-- Settles O21: each legal code selects its width, the length is checked next, and `W = 3` selects none. -/
theorem skInitConfiguresTheEngine : Obligations.SkInitConfiguresTheEngine := by
  unfold Obligations.SkInitConfiguresTheEngine
  refine ⟨fun c w f s hc ha => ?_, fun c f s hc ha => exec_skInit_of_no_bits f hc ha, fun f s => rfl⟩
  have hwidths : ∀ p ∈ [(0#2, Width.w256), (1#2, .w512), (2#2, .w1024)], Width.ofCode p.1 = some p.2 := by decide
  have hflags : startFlags .msg = 0x7000000000000000#64 := by decide
  rw [exec_skInit_of_width f (hwidths _ hc) ha, freshEngine, hflags]
  rfl

/-- Settles O22: the inputs are the same, one by one. -/
theorem emptyOptionalInputIsAbsent : Obligations.EmptyOptionalInputIsAbsent := by
  unfold Obligations.EmptyOptionalInputIsAbsent
  intro c f s
  refine ⟨fun h => ?_, fun h => ?_, fun h => ?_, fun h => ?_, fun h => ?_⟩ <;>
    exact exec_skInit_congr (by simp only [initInputs, h, optionalInput_nil])

/-- Settles O23: the block is the bytes of the four words. -/
theorem configurationBlockWords : Obligations.ConfigurationBlockWords := by
  unfold Obligations.ConfigurationBlockWords
  intro db
  rw [configBlock_eq_bytesOf]
  exact ⟨length_bytesOf _, wordsOf_bytesOf _⟩

/-- Settles O27: the absorbed bytes are the whole ones and the partial one, and without one nothing is missing. -/
theorem alignedUpdateWrites : Obligations.AlignedUpdateWrites := by
  unfold Obligations.AlignedUpdateWrites
  intro b s hready hwhole hbits hroom
  rw [exec_skUpdate_of_aligned hready hbits hwhole hroom, alignedUpdate, updateBytes_eq_append, hwhole,
    updateMissing_zero]
  rfl

/-- Settles O29: the merge replaces the last byte of the buffer. -/
theorem mergeUpdateWrites : Obligations.MergeUpdateWrites := by
  unfold Obligations.MergeUpdateWrites
  intro b s hready hheld hbuf hbits hfits
  rw [exec_skUpdate_of_merge hready hbits hheld hfits, mergeUpdate_of_held hbuf, ← mergeByte_ite_pos]
  rfl

/-- Settles O31: bit by bit, the held bits, the new ones and the terminator. -/
theorem mergeByteShape : Obligations.MergeByteShape := by
  unfold Obligations.MergeByteShape
  intro p b miss k hpos hlt hk
  simp only [getLsbD_mergeByte p b (miss := miss) (k := k) (by omega)]
  refine ⟨fun j hlo hhi => ?_, fun j hlo hhi => ?_, fun h => ?_, fun j hj => ?_⟩
  · have hheld : j < 8 := by omega
    have hnew : ¬ 8 - miss + j < 8 := by omega
    have hterm : j + 1 ≠ miss - k := by omega
    simp [hlo, hheld, hnew, hterm]
  · have hheld : ¬ miss ≤ j := by omega
    have hnew : 8 - miss + j = j + 8 - miss := by omega
    have hmask : 8 - k ≤ j + 8 - miss := by omega
    have hbyte : j + 8 - miss < 8 := by omega
    have hterm : j + 1 ≠ miss - k := by omega
    simp [hheld, hnew, hmask, hbyte, hterm]
  · have hterm : miss - k - 1 + 1 = miss - k := by omega
    simp [hterm]
  · have hheld : ¬ miss ≤ j := by omega
    have hmask : ¬ 8 - k ≤ 8 - miss + j := by omega
    have hterm : j + 1 ≠ miss - k := by omega
    simp [hheld, hmask, hterm]

/-- Settles O32: the check of R122, which every whole byte fails. -/
theorem unalignedContinuationIsRefused : Obligations.UnalignedContinuationIsRefused := by
  unfold Obligations.UnalignedContinuationIsRefused
  refine ⟨fun b s => exec_skUpdate_of_unaligned, fun s hready hheld hd => ?_,
    fun b s hready hheld hfits hbits => ?_⟩
  · refine exec_skUpdate_of_unaligned hready hheld ?_
    have hbits : updateBits false s.port = 8 * s.port.d0.length := rfl
    have := List.length_pos_of_ne_nil hd
    omega
  · exact ⟨_, exec_skUpdate_of_merge hready hbits hheld hfits, rfl⟩

/-- Settles O33: the check of R123 after that of R121, and neither merge nor refusal is an overflow. -/
theorem overflowChangesNothing : Obligations.OverflowChangesNothing := by
  unfold Obligations.OverflowChangesNothing
  refine ⟨fun b s hready hwhole hbits hfull => ?_, fun b s => exec_skUpdate_of_excess, fun b s t hheld h => ?_⟩
  · rw [← bytesForBits_eq_div_add] at hfull
    exact exec_skUpdate_of_overflow hready hbits hwhole hfull
  · obtain ⟨-, rfl⟩ | ⟨-, -, rfl⟩ | ⟨-, -, -, -, rfl⟩ | ⟨-, -, -, -, rfl⟩ | ⟨-, -, hwhole, -, -⟩ |
      ⟨-, -, hwhole, -, -⟩ := execSkUpdate_cases h
    · exact (by decide : Status.notConfigured.code ≠ 0x02#8)
    · exact (by decide : Status.invalidArgument.code ≠ 0x02#8)
    · exact (by decide : Status.invalidArgument.code ≠ 0x02#8)
    · exact (by decide : Status.ok.code ≠ 0x02#8)
    · exact absurd hwhole hheld
    · exact absurd hwhole hheld

end Sys2Proof.Machine
end

section
/-! `SK_DIGEST`, for the family 43_output: what it answers (R132, R136), the bytes of the output stream and of a digest
window (R135, R137), and the flags of the last message block (R134). -/

namespace Sys2Proof.Machine

/-! ## What SK_DIGEST answers (R131, R136) -/

section
variable {e st : Bool} {s : State} (hready : s.sk.ready = true)
include hready

theorem exec_skDigest_of_window (hle : windowStart st s.port ≤ windowStop e s.port (digestLength s.sk))
    (hend : windowStop e s.port (digestLength s.sk) ≤ digestLength s.sk) :
    exec (.skDigest e st) s =
      .next (s.respond
        (digestWindow s.sk (windowStart st s.port) (windowStop e s.port (digestLength s.sk)))) := by
  have hwindow := not_or.2 ⟨Nat.not_lt.2 hle, Nat.not_lt.2 hend⟩
  exact (if_neg (by simp [hready])).trans (if_neg hwindow)

theorem exec_skDigest_of_no_window (h : invalidArgumentCause (.skDigest e st) s) :
    exec (.skDigest e st) s = .next (s.fail .invalidArgument) :=
  (if_neg (by simp [hready])).trans (if_pos h)

end

/-- A digest writes the response registers and nothing else (R131). -/
theorem exec_skDigest_writes_response {e st : Bool} {s t : State} (h : exec (.skDigest e st) s = .next t) :
    ∃ c d, t = { s with status := c, rdata := d } := by
  cases exec_effect h with
  | fails => exact ⟨_, _, rfl⟩
  | answers => exact ⟨_, _, rfl⟩

/-- No command reads the response of an earlier one, and every command overwrites it. -/
theorem exec_of_response (i : Instr) (s : State) (c : BitVec 8) (d : List Byte) :
    exec i { s with status := c, rdata := d } = exec i s := by
  cases i <;> rfl

/-! ## The output stream (R135) -/

/-- Byte `j` of the output stream of the root `g`. -/
def outputByte (w : Width) (g : List Word) (j : Nat) : Byte := byteAt (outBlock w g (j / w.bytes)) (j % w.bytes)

theorem length_outBlock (w : Width) (g : List Word) (i : Nat) : (outBlock w g i).length = w.bytes := by
  rw [outBlock, length_bytesOf, length_ubi, Width.bytes]

theorem length_flatMap_outBlock (w : Width) (g : List Word) (i n : Nat) :
    ((List.range' i n).flatMap (outBlock w g)).length = n * w.bytes := by
  simp [List.length_flatMap, length_outBlock]

/-- `n` output blocks from block `i` on are the stream from byte `i · NB` on. -/
theorem byteAt_flatMap_outBlock (w : Width) (g : List Word) (i : Nat) {n k : Nat} (h : k < n * w.bytes) :
    byteAt ((List.range' i n).flatMap (outBlock w g)) k = outputByte w g (i * w.bytes + k) := by
  induction n generalizing i k with
  | zero => omega
  | succ n ih =>
    rw [Nat.succ_mul] at h
    rw [List.range'_succ, List.flatMap_cons]
    by_cases hk : k < w.bytes
    · have hdiv : (i * w.bytes + k) / w.bytes = i := by
        rw [Nat.mul_comm, Nat.mul_add_div w.bytes_pos, Nat.div_eq_of_lt hk, Nat.add_zero]
      have hmod : (i * w.bytes + k) % w.bytes = k := by rw [Nat.mul_add_mod_self_right, Nat.mod_eq_of_lt hk]
      rw [byteAt_append_left _ _ _ (by rwa [length_outBlock]), outputByte, hdiv, hmod]
    · have hpos : (i + 1) * w.bytes + (k - w.bytes) = i * w.bytes + k := by
        rw [Nat.succ_mul]
        omega
      rw [byteAt_append_right _ _ _ (by rw [length_outBlock]; omega), length_outBlock, ih (i + 1) (by omega), hpos]

/-- The output blocks of a window reach its end. -/
theorem le_end_of_outputBlocks (w : Width) {start stop : Nat} (h : start < stop) :
    stop ≤ start / w.bytes * w.bytes + ((stop - 1) / w.bytes + 1 - start / w.bytes) * w.bytes := by
  have hblocks : start / w.bytes ≤ (stop - 1) / w.bytes := Nat.div_le_div_right (by omega)
  have hend : stop - 1 < ((stop - 1) / w.bytes + 1) * w.bytes :=
    (Nat.div_lt_iff_lt_mul w.bytes_pos).1 (Nat.lt_succ_self _)
  rw [← Nat.add_mul, Nat.add_sub_cancel' (by omega)]
  omega

theorem length_outputWindow (w : Width) (g : List Word) {start stop : Nat} (h : start < stop) :
    (outputWindow w g start stop).length = stop - start := by
  have hend := le_end_of_outputBlocks w h
  have hstart := Nat.div_mul_le_self start w.bytes
  rw [outputWindow, List.length_take, List.length_drop, outputBlocks, length_flatMap_outBlock]
  omega

theorem byteAt_outputWindow (w : Width) (g : List Word) {start stop k : Nat} (h : k < stop - start) :
    byteAt (outputWindow w g start stop) k = outputByte w g (start + k) := by
  have hend := le_end_of_outputBlocks w (start := start) (stop := stop) (by omega)
  have hstart := Nat.div_mul_le_self start w.bytes
  have hpos : start / w.bytes * w.bytes + (start - start / w.bytes * w.bytes + k) = start + k := by omega
  calc
    byteAt (outputWindow w g start stop) k
      = byteAt (outputBlocks w g start stop) (start - start / w.bytes * w.bytes + k) := by
        simp [outputWindow, byteAt, List.getD_eq_getElem?_getD, List.getElem?_take_of_lt h, List.getElem?_drop]
    _ = outputByte w g (start + k) := by
        rw [outputBlocks, byteAt_flatMap_outBlock w g _ (by omega), hpos]

/-! ## The digest (R136, R137) -/

/-- Byte `j` of the digest: that of the output stream, byte `L - 1` masked when the digest ends inside it (R137). -/
def digestByte (e : EngineCtx) (j : Nat) : Byte :=
  if e.digestBits.toNat % 8 ≠ 0 ∧ j = digestLength e - 1 then
    outputByte e.nb (rootChain e) j &&& digestMask (e.digestBits.toNat % 8)
  else outputByte e.nb (rootChain e) j

@[simp] theorem length_maskWindow (e : EngineCtx) (stop : Nat) (r : List Byte) :
    (maskWindow e stop r).length = r.length := by
  unfold maskWindow
  split <;> simp

/-- The mask changes the last byte alone. -/
theorem byteAt_maskWindow (e : EngineCtx) (stop : Nat) {r : List Byte} {k : Nat} (h : k < r.length) :
    byteAt (maskWindow e stop r) k =
      if e.digestBits.toNat % 8 ≠ 0 ∧ stop = digestLength e ∧ k = r.length - 1 then
        byteAt r k &&& digestMask (e.digestBits.toNat % 8)
      else byteAt r k := by
  unfold maskWindow
  by_cases hmask : e.digestBits.toNat % 8 ≠ 0 ∧ stop = digestLength e
  · rw [if_pos hmask, byteAt_of_lt (by simpa using h), List.getElem_set, ← byteAt_of_lt h]
    by_cases hk : k = r.length - 1
    · simp [hmask, hk]
    · simp [hk, Ne.symm hk]
  · rw [if_neg hmask, if_neg (by tauto)]

theorem length_digestWindow (e : EngineCtx) {start stop : Nat} (h : start ≤ stop) :
    (digestWindow e start stop).length = stop - start := by
  unfold digestWindow
  split_ifs with heq
  · simp [heq]
  · rw [length_maskWindow, length_outputWindow _ _ (Nat.lt_of_le_of_ne h heq)]

/-- A window within the digest holds the digest's bytes: whether a byte is masked does not depend on the window. -/
theorem byteAt_digestWindow (e : EngineCtx) {start stop k : Nat} (h : k < stop - start)
    (hend : stop ≤ digestLength e) : byteAt (digestWindow e start stop) k = digestByte e (start + k) := by
  have hlen := length_outputWindow e.nb (rootChain e) (start := start) (stop := stop) (by omega)
  have hlast : (stop = digestLength e ∧ k = stop - start - 1) ↔ start + k = digestLength e - 1 := by omega
  rw [digestWindow, if_neg (by omega), byteAt_maskWindow _ _ (by rwa [hlen]), hlen, byteAt_outputWindow _ _ h]
  simp only [hlast, digestByte]

/-- A window is a slice of the window from byte 0. -/
theorem digestWindow_eq_drop (e : EngineCtx) {start stop : Nat} (h : start ≤ stop) (hend : stop ≤ digestLength e) :
    digestWindow e start stop = (digestWindow e 0 stop).drop start := by
  have hlen : ((digestWindow e 0 stop).drop start).length = stop - start := by
    rw [List.length_drop, length_digestWindow e (Nat.zero_le stop), Nat.sub_zero]
  refine eq_of_byteAt_eq (by rw [length_digestWindow e h, hlen]) fun k hk => ?_
  rw [hlen] at hk
  have hdrop : byteAt ((digestWindow e 0 stop).drop start) k = byteAt (digestWindow e 0 stop) (start + k) := by
    simp [byteAt, List.getD_eq_getElem?_getD, List.getElem?_drop]
  rw [hdrop, byteAt_digestWindow e hk hend, byteAt_digestWindow e (by omega) hend, Nat.zero_add]

theorem digestLength_lt (e : EngineCtx) : digestLength e < 2 ^ 64 := by
  have := e.digestBits.isLt
  unfold digestLength bytesForBits
  omega

@[simp] theorem State.withWindow_sk (s : State) (a b : Nat) : (s.withWindow a b).sk = s.sk := rfl

theorem windowStart_withWindow (s : State) {a : Nat} (b : Nat) (h : a < 2 ^ 64) :
    windowStart true (s.withWindow a b).port = a := Nat.mod_eq_of_lt h

theorem windowStop_withWindow (s : State) (a : Nat) {b : Nat} (l : Nat) (h : b < 2 ^ 64) :
    windowStop true (s.withWindow a b).port l = b := Nat.mod_eq_of_lt h

/-- A digest whose bounds are given answers that window. -/
theorem exec_skDigest_withWindow {s : State} {a b : Nat} (hready : s.sk.ready = true) (h : a ≤ b)
    (hend : b ≤ digestLength s.sk) :
    exec (.skDigest true true) (s.withWindow a b) =
      .next ((s.withWindow a b).respond (digestWindow s.sk a b)) := by
  have hlt := digestLength_lt s.sk
  have hstart := windowStart_withWindow s (a := a) b (by omega)
  have hstop := windowStop_withWindow s a (b := b) (digestLength s.sk) (by omega)
  have hexec := exec_skDigest_of_window (e := true) (st := true) (s := s.withWindow a b) hready
    ((hstart.trans_le h).trans hstop.ge) (hstop.trans_le hend)
  rwa [hstart, State.withWindow_sk, hstop] at hexec

/-! ## The flags of the last block (R134) -/

theorem getLsbD_finalizeFlags (missing : Fin 8) (t1 : Word) (j : Nat) :
    (finalizeFlags missing t1).getLsbD j =
      (t1.getLsbD j || decide (63 = j) || decide (missing ≠ 0) && decide (55 = j)) := by
  have hfinal : finalFlag.getLsbD j = decide (63 = j) := by
    rw [finalFlag, ← BitVec.twoPow_eq, BitVec.getLsbD_twoPow, decide_eq_true (by decide : 63 < 64), Bool.true_and]
  have hpad : bitPadFlag.getLsbD j = decide (55 = j) := by
    rw [bitPadFlag, ← BitVec.twoPow_eq, BitVec.getLsbD_twoPow, decide_eq_true (by decide : 55 < 64), Bool.true_and]
  unfold finalizeFlags
  split_ifs with hheld <;> simp [setFinal, hfinal, hpad, hheld]

/-! ## The statements -/

/-- Settles O40: a byte of a window is the digest's byte at its position. -/
theorem digestBytesComeFromTheOutputStream : Obligations.DigestBytesComeFromTheOutputStream := by
  unfold Obligations.DigestBytesComeFromTheOutputStream
  intro e start stop hle hend
  refine ⟨length_digestWindow e hle, fun j hlo hhi => ?_⟩
  have hbyte := byteAt_digestWindow e (start := start) (stop := stop) (k := j - start) (by omega) hend
  rw [Nat.add_sub_cancel' hlo] at hbyte
  exact hbyte

/-- Settles O41: the window from 0 to `b` has `b` bytes, and its bytes from `a` on are the window from `a`. -/
theorem digestWindowingLaws : Obligations.DigestWindowingLaws := by
  unfold Obligations.DigestWindowingLaws
  intro s a b hready hle hend
  refine ⟨_, _, _, exec_skDigest_withWindow hready hle hend, exec_skDigest_withWindow hready (Nat.zero_le b) hend,
    exec_skDigest_of_window hready (Nat.zero_le _) le_rfl, rfl, rfl, rfl, ?_, fun hb => ?_⟩
  · have htake : (digestWindow s.sk 0 b).take b = digestWindow s.sk 0 b :=
      List.take_of_length_le (length_digestWindow s.sk (Nat.zero_le b)).le
    rw [State.respond_rdata, State.respond_rdata, htake]
    exact digestWindow_eq_drop s.sk hle hend
  · exact congrArg (digestWindow s.sk 0) hb.symm

/-- Settles O42: the digest wrote a response alone, which no later command reads. -/
theorem digestIsRepeatable : Obligations.DigestIsRepeatable := by
  unfold Obligations.DigestIsRepeatable
  intro e st s t o h
  obtain ⟨c, d, rfl⟩ := exec_skDigest_writes_response h
  exact ⟨fun e' st' => exec_of_response _ { s with port := o } c d,
    fun b => exec_of_response _ { s with port := o } c d⟩

/-- Settles O39: the bounds are those of the operand forms, and the checks those of R136. -/
theorem digestAnswersEveryWindow : Obligations.DigestAnswersEveryWindow := by
  unfold Obligations.DigestAnswersEveryWindow
  rintro e st s _ _ rfl rfl
  exact ⟨exec_skDigest_of_window, exec_of_unconfigured (i := .skDigest e st), exec_skDigest_of_no_window⟩

/-- Settles O43: Final is bit 63 and BitPad bit 55, and setting a flag leaves the other bits. -/
theorem finalizationFlags : Obligations.FinalizationFlags := by
  unfold Obligations.FinalizationFlags
  intro missing t1
  refine ⟨?_, ?_, fun j hfinal hpad => ?_⟩
  · rw [getLsbD_finalizeFlags]
    simp
  · rw [getLsbD_finalizeFlags]
    simp
  · simp [getLsbD_finalizeFlags, hfinal.symm, hpad.symm]

end Sys2Proof.Machine
end

section
/-! The errors of a command, for the family 60_exceptions: the checks of a command in the order of R148, which of them
stops it, and what it leaves then (R143, R144, R147, R150, R152). -/

namespace Sys2Proof.Machine

/-! ## The checks of a command (R148) -/

/-- The command is an `SK_UPDATE` on the byte-aligned path, and its bytes would bring the counter to its limit
(R144). -/
def overflowsCounter (i : Instr) (s : State) : Prop :=
  ∃ b, i = .skUpdate b ∧ s.sk.missing = 0 ∧
    s.sk.bytesHashed.toNat + bytesForBits (updateBits b s.port) ≥ 2 ^ 64 - 1

/-- What a command leaves by the first of its checks that fails, in the order of R148, or by completing. -/
inductive CheckedResult (i : Instr) (s : State) : State → Prop
  /-- R142. -/
  | illegal (illFormed : i.wellFormed = false) : CheckedResult i s (s.fail .illegalCommand)
  /-- R147. -/
  | notConfigured (word : i.wellFormed = true) (context : unconfigured i s) :
      CheckedResult i s (s.fail .notConfigured)
  /-- R143. -/
  | invalidArgument (word : i.wellFormed = true) (context : ¬ unconfigured i s)
      (cause : invalidArgumentCause i s) : CheckedResult i s (s.fail .invalidArgument)
  /-- R144. -/
  | overflow (word : i.wellFormed = true) (context : ¬ unconfigured i s) (arguments : ¬ invalidArgumentCause i s)
      (full : overflowsCounter i s) : CheckedResult i s (s.fail .overflow)
  /-- Every check passes. -/
  | completes (word : i.wellFormed = true) (context : ¬ unconfigured i s) (arguments : ¬ invalidArgumentCause i s)
      (room : ¬ overflowsCounter i s) (data : List Byte) (written : State) : CheckedResult i s (written.respond data)

theorem exec_of_not_wellFormed {i : Instr} (s : State) (h : i.wellFormed = false) :
    exec i s = .next (s.fail .illegalCommand) := by
  cases i with
  | skInit c f =>
    obtain rfl : c = 3#2 := by simpa [Instr.wellFormed] using h
    rfl
  | skUpdate b => cases h
  | skDigest e st => cases h
  | tfSetup => cases h
  | tfEncrypt => cases h
  | tfDecrypt => cases h
  | tfGetTweak => cases h
  | tfSetTweak => cases h

theorem exec_of_overflowsCounter {i : Instr} {s : State} (hr : ¬ unconfigured i s)
    (hc : ¬ invalidArgumentCause i s) (h : overflowsCounter i s) : exec i s = .next (s.fail .overflow) := by
  obtain ⟨b, rfl, hwhole, hlimit⟩ := h
  obtain ⟨hbits, -⟩ := not_or.1 hc
  exact exec_skUpdate_of_overflow (Bool.eq_true_of_not_eq_false hr) (Nat.not_lt.1 hbits) hwhole hlimit

section
variable {i : Instr} {s : State} (hwf : i.wellFormed = true) (hr : ¬ unconfigured i s)
include hwf hr

/-- R143, for the commands of both contexts. -/
theorem exec_of_wellFormed_of_cause (h : invalidArgumentCause i s) : exec i s = .next (s.fail .invalidArgument) := by
  cases i with
  | skInit c f => exact exec_skInit_of_no_bits f (of_decide_eq_true hwf) h
  | skUpdate b =>
    obtain hexcess | ⟨hheld, hmore⟩ := h
    · exact exec_skUpdate_of_excess (Bool.eq_true_of_not_eq_false hr) hexcess
    · exact exec_skUpdate_of_unaligned (Bool.eq_true_of_not_eq_false hr) hheld hmore
  | skDigest e st => exact exec_skDigest_of_no_window (Bool.eq_true_of_not_eq_false hr) h
  | tfSetup => exact exec_of_invalidArgumentCause rfl hr h
  | tfEncrypt => exact exec_of_invalidArgumentCause rfl hr h
  | tfDecrypt => exact exec_of_invalidArgumentCause rfl hr h
  | tfGetTweak => exact exec_of_invalidArgumentCause rfl hr h
  | tfSetTweak => exact exec_of_invalidArgumentCause rfl hr h

theorem exec_of_checks_pass (hc : ¬ invalidArgumentCause i s) (hfull : ¬ overflowsCounter i s) :
    ∃ (data : List Byte) (written : State), exec i s = .next (written.respond data) := by
  cases i with
  | skInit c f =>
    obtain ⟨w, hw⟩ := Option.ne_none_iff_exists'.1 (mt (Width.ofCode_eq_none_iff c).1 (of_decide_eq_true hwf))
    exact ⟨_, _, exec_skInit_of_width f hw hc⟩
  | skUpdate b =>
    have hready : s.sk.ready = true := Bool.eq_true_of_not_eq_false hr
    obtain ⟨hbits, hfits⟩ := not_or.1 hc
    by_cases hwhole : s.sk.missing = 0
    · have hroom := fun hlimit => hfull ⟨b, rfl, hwhole, hlimit⟩
      exact ⟨_, _, exec_skUpdate_of_aligned hready (Nat.not_lt.1 hbits) hwhole (Nat.not_le.1 hroom)⟩
    · have hless := fun hmore => hfits ⟨hwhole, hmore⟩
      exact ⟨_, _, exec_skUpdate_of_merge hready (Nat.not_lt.1 hbits) hwhole (Nat.not_lt.1 hless)⟩
  | skDigest e st =>
    obtain ⟨hle, hend⟩ := not_or.1 hc
    exact ⟨_, _, exec_skDigest_of_window (Bool.eq_true_of_not_eq_false hr) (Nat.not_lt.1 hle) (Nat.not_lt.1 hend)⟩
  | tfSetup =>
    obtain ⟨hkey, htweak⟩ := not_or.1 hc
    obtain ⟨w, hw⟩ := Option.ne_none_iff_exists'.1 (mt (Width.ofKeyLength_eq_none_iff _).1 hkey)
    exact ⟨_, _, exec_tfSetup_of_lengths ((Width.ofKeyLength_eq_some _ _).1 hw) (not_not.1 htweak)⟩
  | tfEncrypt => exact ⟨_, _, exec_tfEncrypt_of_block (Bool.eq_true_of_not_eq_false hr) (not_not.1 hc)⟩
  | tfDecrypt => exact ⟨_, _, exec_tfDecrypt_of_block (Bool.eq_true_of_not_eq_false hr) (not_not.1 hc)⟩
  | tfGetTweak => exact ⟨_, _, exec_tfGetTweak_of_configured (Bool.eq_true_of_not_eq_false hr)⟩
  | tfSetTweak => exact ⟨_, _, exec_tfSetTweak_of_tweak (Bool.eq_true_of_not_eq_false hr) (not_not.1 hc)⟩

end

/-- Every command is stopped by the first check it fails, and completes if it passes them all. -/
theorem exec_checkedResult {i : Instr} {s t : State} (h : exec i s = .next t) : CheckedResult i s t := by
  cases hwf : i.wellFormed with
  | false =>
    cases h.symm.trans (exec_of_not_wellFormed s hwf)
    exact .illegal hwf
  | true =>
    by_cases hr : unconfigured i s
    · cases h.symm.trans (exec_of_unconfigured hr)
      exact .notConfigured hwf hr
    by_cases hc : invalidArgumentCause i s
    · cases h.symm.trans (exec_of_wellFormed_of_cause hwf hr hc)
      exact .invalidArgument hwf hr hc
    by_cases hfull : overflowsCounter i s
    · cases h.symm.trans (exec_of_overflowsCounter hr hc hfull)
      exact .overflow hwf hr hc hfull
    · obtain ⟨data, written, hdone⟩ := exec_of_checks_pass hwf hr hc hfull
      cases h.symm.trans hdone
      exact .completes hwf hr hc hfull data written

/-! ## What an error leaves (R150) -/

/-- A command that does not report OK was stopped by a check. -/
theorem exec_error {i : Instr} {s t : State} (h : exec i s = .next t) (herr : t.status ≠ Status.ok.code) :
    ∃ e, t = s.fail e := by
  cases exec_checkedResult h with
  | illegal => exact ⟨_, rfl⟩
  | notConfigured => exact ⟨_, rfl⟩
  | invalidArgument => exact ⟨_, rfl⟩
  | overflow => exact ⟨_, rfl⟩
  | completes => exact absurd rfl herr

theorem runCommand_error {cmd : CmdWord} {s t : State} (h : runCommand cmd s = .next t)
    (herr : t.status ≠ Status.ok.code) : ∃ e, t = s.fail e := by
  by_cases hlegal : ∃ i, decode cmd = .command i
  · obtain ⟨i, hi⟩ := hlegal
    exact exec_error (runCommand_of_decode hi s ▸ h) herr
  · exact ⟨_, Host.Outcome.next.inj (h.symm.trans (runCommand_of_not_command hlegal s))⟩

/-! ## The statements -/

/-- Settles O13: an illegal word and a check that fails both end in `State.fail`. -/
theorem errorsWriteNoOtherRegister : Obligations.ErrorsWriteNoOtherRegister := by
  unfold Obligations.ErrorsWriteNoOtherRegister
  intro cmd s t h herr
  obtain ⟨e, rfl⟩ := runCommand_error h herr
  rfl

/-- Settles O15: a well-formed command passes the first check, and this is the third. -/
theorem invalidArgumentExactly : Obligations.InvalidArgumentExactly := by
  unfold Obligations.InvalidArgumentExactly
  intro i s t hwf h
  cases exec_checkedResult h with
  | illegal illFormed => exact absurd (hwf.symm.trans illFormed) (by decide)
  | notConfigured _ context =>
    exact iff_of_false (by decide : Status.notConfigured.code ≠ 0x01#8) fun hcause => hcause.1 context
  | invalidArgument _ context cause => exact iff_of_true rfl ⟨context, cause⟩
  | overflow _ _ arguments =>
    exact iff_of_false (by decide : Status.overflow.code ≠ 0x01#8) fun hcause => arguments hcause.2
  | completes _ _ arguments =>
    exact iff_of_false (by decide : Status.ok.code ≠ 0x01#8) fun hcause => arguments hcause.2

/-- Settles O16: the first check of a well-formed command, and an ill-formed one needs no context. -/
theorem notConfiguredExactly : Obligations.NotConfiguredExactly := by
  unfold Obligations.NotConfiguredExactly
  intro i s t h
  by_cases hr : unconfigured i s
  · cases h.symm.trans (exec_of_unconfigured hr)
    exact iff_of_true rfl hr
  refine iff_of_false ?_ hr
  cases exec_checkedResult h with
  | illegal => exact (by decide : Status.illegalCommand.code ≠ 0x06#8)
  | notConfigured _ context => exact absurd context hr
  | invalidArgument => exact (by decide : Status.invalidArgument.code ≠ 0x06#8)
  | overflow => exact (by decide : Status.overflow.code ≠ 0x06#8)
  | completes => exact (by decide : Status.ok.code ≠ 0x06#8)

/-- Settles O17: the last check, which only `SK_UPDATE` has. -/
theorem overflowExactly : Obligations.OverflowExactly := by
  unfold Obligations.OverflowExactly
  intro i s t h
  constructor
  · intro hstatus
    cases exec_checkedResult h with
    | illegal => exact absurd hstatus (by decide : Status.illegalCommand.code ≠ 0x02#8)
    | notConfigured => exact absurd hstatus (by decide : Status.notConfigured.code ≠ 0x02#8)
    | invalidArgument => exact absurd hstatus (by decide : Status.invalidArgument.code ≠ 0x02#8)
    | overflow _ context arguments full =>
      obtain ⟨b, rfl, hwhole, hlimit⟩ := full
      exact ⟨b, rfl, context, arguments, hwhole, hlimit⟩
    | completes => exact absurd hstatus (by decide : Status.ok.code ≠ 0x02#8)
  · rintro ⟨b, rfl, context, arguments, hwhole, hlimit⟩
    cases h.symm.trans (exec_of_overflowsCounter context arguments ⟨b, rfl, hwhole, hlimit⟩)
    rfl

/-- Settles O18: a command reads the contexts and the port alone, and overwrites both response registers. -/
theorem earlierResponseHasNoEffect : Obligations.EarlierResponseHasNoEffect := by
  unfold Obligations.EarlierResponseHasNoEffect
  exact exec_of_response

end Sys2Proof.Machine
end

section
/-! Reset and the unspecified registers, for the family 70_reset_and_hazards: what reset writes (R162), which commands
complete before a context is configured (R163), and why the registers of an unconfigured context show in no response
(R162, R171). -/

namespace Sys2Proof.Machine

/-! ## Reset (R161, R162) -/

theorem step_of_reset {s : State} {rest : List HostEvent} (h : s.inputs = .reset :: rest) :
    step s = .next (afterReset rest) := by
  simp only [step, h]

theorem engineInv_reset : EngineInv EngineCtx.reset := fun h => by cases h

/-! ## Before a context is configured (R163) -/

/-- `SK_INIT` and `TF_SETUP` are the only commands that need no configured context. -/
theorem setup_of_not_unconfigured {i : Instr} {s : State} (hsk : s.sk.ready = false) (htf : s.tf.ready = false)
    (h : ¬ unconfigured i s) : (∃ w f, i = .skInit w f) ∨ i = .tfSetup := by
  cases i with
  | skInit w f => exact .inl ⟨w, f, rfl⟩
  | skUpdate b => exact absurd hsk h
  | skDigest e st => exact absurd hsk h
  | tfSetup => exact .inr rfl
  | tfEncrypt => exact absurd htf h
  | tfDecrypt => exact absurd htf h
  | tfGetTweak => exact absurd htf h
  | tfSetTweak => exact absurd htf h

/-- Only an `SK_INIT` that completes configures the engine. -/
theorem skInit_of_exec_configures {i : Instr} {s t : State} (h : exec i s = .next t) (hs : s.sk.ready = false)
    (ht : t.sk.ready = true) : (∃ w f, i = .skInit w f) ∧ t.status = Status.ok.code := by
  have hchanged : t.sk.ready ≠ s.sk.ready := by simp [hs, ht]
  cases exec_effect h with
  | fails => exact absurd rfl hchanged
  | answers => exact absurd rfl hchanged
  | initializes => exact ⟨⟨_, _, rfl⟩, rfl⟩
  | merges => exact absurd rfl hchanged
  | absorbs => exact absurd rfl hchanged
  | setsUp => exact absurd rfl hchanged
  | setsTweak => exact absurd rfl hchanged

/-- Only a `TF_SETUP` that completes configures the Threefish context. -/
theorem tfSetup_of_exec_configures {i : Instr} {s t : State} (h : exec i s = .next t) (hs : s.tf.ready = false)
    (ht : t.tf.ready = true) : i = .tfSetup ∧ t.status = Status.ok.code := by
  have hchanged : t.tf.ready ≠ s.tf.ready := by simp [hs, ht]
  cases exec_effect h with
  | fails => exact absurd rfl hchanged
  | answers => exact absurd rfl hchanged
  | initializes => exact absurd rfl hchanged
  | merges => exact absurd rfl hchanged
  | absorbs => exact absurd rfl hchanged
  | setsUp => exact ⟨rfl, rfl⟩
  | setsTweak => exact absurd rfl hchanged

/-! ## States that differ in unconfigured contexts (R162)

Agreement is kept by every operation on the state that the commands share. -/

/-- The outcomes are next states that agree. -/
def AnswersAgree (x y : Host.Outcome State Fault Refusal) : Prop :=
  ∃ t t', x = .next t ∧ y = .next t' ∧ AgreeWhereConfigured t t'

namespace AgreeWhereConfigured

theorem refl (s : State) : AgreeWhereConfigured s s :=
  ⟨rfl, fun _ => rfl, rfl, fun _ => rfl, rfl, rfl, rfl, rfl⟩

variable {s s' : State} (h : AgreeWhereConfigured s s')
include h

theorem setSk (e : EngineCtx) : AgreeWhereConfigured (s.setSk e) (s'.setSk e) :=
  { h with skReady := rfl, sk := fun _ => rfl }

theorem setTf (c : CipherCtx) : AgreeWhereConfigured (s.setTf c) (s'.setTf c) :=
  { h with tfReady := rfl, tf := fun _ => rfl }

theorem accept (tr : Transaction) (rest : List HostEvent) :
    AgreeWhereConfigured (s.accept tr rest) (s'.accept tr rest) :=
  { h with port := rfl, inputs := rfl }

theorem dropInput (rest : List HostEvent) : AgreeWhereConfigured (s.dropInput rest) (s'.dropInput rest) :=
  { h with inputs := rfl }

theorem raise (e : Status) : AnswersAgree (raise e s) (raise e s') :=
  ⟨_, _, rfl, rfl, { h with status := rfl, rdata := rfl }⟩

theorem complete (data : List Byte) : AnswersAgree (complete data s) (complete data s') :=
  ⟨_, _, rfl, rfl, { h with status := rfl, rdata := rfl }⟩

theorem unconfigured_iff (i : Instr) : unconfigured i s ↔ unconfigured i s' := by
  unfold unconfigured
  rw [h.skReady, h.tfReady]

theorem eq_setTf (hsk : s.sk = s'.sk) : s' = s.setTf s'.tf := by
  rw [State.setTf, hsk, h.status, h.rdata, h.port, h.inputs]

theorem eq_setSk (htf : s.tf = s'.tf) : s' = s.setSk s'.sk := by
  rw [State.setSk, htf, h.status, h.rdata, h.port, h.inputs]

end AgreeWhereConfigured

/-! ## Every command, word and step on states that agree -/

/-- Every command ends: by the first of its checks that fails, or by completing. -/
theorem exec_answers (i : Instr) (s : State) : ∃ t, exec i s = .next t := by
  by_cases hwf : i.wellFormed = true
  · by_cases hr : unconfigured i s
    · exact ⟨_, exec_of_unconfigured hr⟩
    by_cases hc : invalidArgumentCause i s
    · exact ⟨_, exec_of_wellFormed_of_cause hwf hr hc⟩
    by_cases hfull : overflowsCounter i s
    · exact ⟨_, exec_of_overflowsCounter hr hc hfull⟩
    · obtain ⟨_, _, hdone⟩ := exec_of_checks_pass hwf hr hc hfull
      exact ⟨_, hdone⟩
  · exact ⟨_, exec_of_not_wellFormed s (Bool.eq_false_of_not_eq_true hwf)⟩

section
variable {s s' : State} (h : AgreeWhereConfigured s s')
include h

/-- A command of the engine does not use the Threefish context, so two states that agree may differ there. -/
theorem exec_agree_of_sk_eq {i : Instr} (hi : isThreefish i = false) (hsk : s.sk = s'.sk) :
    AnswersAgree (exec i s) (exec i s') := by
  obtain ⟨t, ht⟩ := exec_answers i s
  obtain ⟨htf, hreplace⟩ := contextsAreIndependent.2 i s t hi ht
  refine ⟨t, t.setTf s'.tf, ht, ?_, ?_⟩
  · rw [h.eq_setTf hsk]
    exact hreplace s'.tf
  · exact { AgreeWhereConfigured.refl t with
      tfReady := htf ▸ h.tfReady
      tf := htf ▸ h.tf }

/-- A command of the Threefish context does not use the engine, so two states that agree may differ there. -/
theorem exec_agree_of_tf_eq {i : Instr} (hi : isThreefish i = true) (htf : s.tf = s'.tf) :
    AnswersAgree (exec i s) (exec i s') := by
  obtain ⟨t, ht⟩ := exec_answers i s
  obtain ⟨hsk, hreplace⟩ := contextsAreIndependent.1 i s t hi ht
  refine ⟨t, t.setSk s'.sk, ht, ?_, ?_⟩
  · rw [h.eq_setSk htf]
    exact hreplace s'.sk
  · exact { AgreeWhereConfigured.refl t with
      skReady := hsk ▸ h.skReady
      sk := hsk ▸ h.sk }

/-- `SK_INIT` reads the port alone. -/
theorem execSkInit_agree (c : BitVec 2) (f : InitMask) : AnswersAgree (execSkInit c f s) (execSkInit c f s') := by
  unfold execSkInit
  rw [← h.port]
  cases Width.ofCode c with
  | none => exact h.raise _
  | some w =>
    dsimp only
    split_ifs
    · exact h.raise _
    · exact (h.setSk _).complete _

/-- `TF_SETUP` reads the port alone. -/
theorem execTfSetup_agree : AnswersAgree (execTfSetup s) (execTfSetup s') := by
  unfold execTfSetup
  rw [← h.port]
  cases Width.ofKeyLength s.port.d0.length with
  | none => exact h.raise _
  | some w =>
    dsimp only
    split_ifs
    · exact h.raise _
    · exact (h.setTf _).complete _

/-- A command reads no register of an unconfigured context: it fails on it, writes it anew, or does not use it. -/
theorem exec_agree (i : Instr) : AnswersAgree (exec i s) (exec i s') := by
  by_cases hr : unconfigured i s
  · rw [exec_of_unconfigured hr, exec_of_unconfigured ((h.unconfigured_iff i).1 hr)]
    exact h.raise .notConfigured
  cases i with
  | skInit c f => exact execSkInit_agree h c f
  | skUpdate b => exact exec_agree_of_sk_eq h rfl (h.sk (Bool.eq_true_of_not_eq_false hr))
  | skDigest e st => exact exec_agree_of_sk_eq h rfl (h.sk (Bool.eq_true_of_not_eq_false hr))
  | tfSetup => exact execTfSetup_agree h
  | tfEncrypt => exact exec_agree_of_tf_eq h rfl (h.tf (Bool.eq_true_of_not_eq_false hr))
  | tfDecrypt => exact exec_agree_of_tf_eq h rfl (h.tf (Bool.eq_true_of_not_eq_false hr))
  | tfGetTweak => exact exec_agree_of_tf_eq h rfl (h.tf (Bool.eq_true_of_not_eq_false hr))
  | tfSetTweak => exact exec_agree_of_tf_eq h rfl (h.tf (Bool.eq_true_of_not_eq_false hr))

theorem runCommand_agree (cmd : CmdWord) : AnswersAgree (runCommand cmd s) (runCommand cmd s') := by
  unfold runCommand
  cases decode cmd with
  | command i => exact exec_agree h i
  | illegal e => exact h.raise _

theorem step_agree : AnswersAgree (step s) (step s') := by
  cases hin : s.inputs with
  | nil => exact ⟨s, s', step_of_idle hin, step_of_idle (h.inputs ▸ hin), h⟩
  | cons event rest =>
    have hin' : s'.inputs = event :: rest := h.inputs ▸ hin
    cases event with
    | reset => exact ⟨_, _, step_of_reset hin, step_of_reset hin', .refl _⟩
    | command tr =>
      cases hfit : tr.operands.fit with
      | true =>
        rw [step_of_fit hin hfit, step_of_fit hin' hfit]
        exact runCommand_agree (h.accept tr rest) tr.cmd
      | false => exact ⟨_, _, step_of_oversize hin hfit, step_of_oversize hin' hfit, h.dropInput rest⟩

theorem takesCommand_congr : takesCommand s = takesCommand s' := by
  unfold takesCommand
  rw [h.inputs]

end

/-! ## The responses of a run (R171) -/

/-- A step that performs a command adds its response to those of the steps after it. -/
theorem observe_succ_of_next {s t : State} (n : Nat) (h : step s = .next t) :
    (observe (n + 1) s).1 =
      if takesCommand s then { status := t.status, rdata := t.rdata } :: (observe n t).1 else (observe n t).1 := by
  rw [observe, h]

/-- Each step gives the same response, and leaves states that agree for the next. -/
theorem observe_responses_congr (n : Nat) {s s' : State} (h : AgreeWhereConfigured s s') :
    (observe n s).1 = (observe n s').1 := by
  induction n generalizing s s' with
  | zero => rfl
  | succ n ih =>
    obtain ⟨t, t', ht, ht', hagree⟩ := step_agree h
    rw [observe_succ_of_next n ht, observe_succ_of_next n ht', takesCommand_congr h, hagree.status, hagree.rdata,
      ih hagree]

/-! ## The statements -/

/-- Settles O10: the first part is `afterReset`, and the second holds because every step keeps the agreement and so
answers alike. -/
theorem resetWritesAndUnspecifiedRegisters : Obligations.ResetWritesAndUnspecifiedRegisters := by
  unfold Obligations.ResetWritesAndUnspecifiedRegisters
  refine ⟨fun s rest hin => ?_, fun n s s' => observe_responses_congr n⟩
  exact ⟨afterReset rest, step_of_reset hin, rfl, rfl, rfl, rfl, rfl⟩

/-- Settles O12: of the commands, only the two that need no context escape `NotConfigured`, and only the writes they
complete with make a context ready. -/
theorem onlySetupCommandsCompleteAfterReset : Obligations.OnlySetupCommandsCompleteAfterReset := by
  unfold Obligations.OnlySetupCommandsCompleteAfterReset
  refine ⟨fun i s t hsk htf h hok => ?_, fun s hsk => ⟨fun b => ?_, fun e st => ?_, fun i t h => ?_⟩,
    fun s htf => ⟨fun i hi => ?_, fun i t h => ?_⟩, fun cmd s hcmd => runCommand_of_not_command hcmd s⟩
  · refine setup_of_not_unconfigured hsk htf fun hr => ?_
    cases h.symm.trans (exec_of_unconfigured hr)
    exact absurd hok (by decide : Status.notConfigured.code ≠ 0x00#8)
  · exact exec_of_unconfigured hsk
  · exact exec_of_unconfigured hsk
  · exact skInit_of_exec_configures h hsk
  · simp only [List.mem_cons, List.not_mem_nil, or_false] at hi
    obtain rfl | rfl | rfl | rfl := hi <;> exact exec_of_unconfigured htf
  · exact tfSetup_of_exec_configures h htf

/-- Settles O57: both contexts are unconfigured, and `STATUS` is OK. -/
theorem blockInvariantAtReset : Obligations.BlockInvariantAtReset := by
  unfold Obligations.BlockInvariantAtReset
  exact ⟨engineInv_reset, cipherInv_reset, statusInv_afterReset []⟩

end Sys2Proof.Machine
end

section
/-! The block and its host, for the family other: every step has a next state, and no command writes what the host has
issued. Both rest on what is known of every command: that it answers, and what it can write. -/

namespace Sys2Proof.Machine

/-- Settles O8: a state agrees with itself, and the steps of states that agree are answered. -/
theorem everyStepAnswersNext : Obligations.EveryStepAnswersNext := by
  unfold Obligations.EveryStepAnswersNext
  intro s
  obtain ⟨t, -, ht, -⟩ := step_agree (.refl s)
  exact ⟨t, ht⟩

/-- Settles O9: a command fails, answers or writes one context anew, and each of these operations on the state leaves
the port and the events. -/
theorem commandsLeaveTheHostsStream : Obligations.CommandsLeaveTheHostsStream := by
  unfold Obligations.CommandsLeaveTheHostsStream
  intro i s t h
  cases exec_effect h <;> simp

end Sys2Proof.Machine
end
